-- ==== Sys2Proof/Word.lean ====
section
/-! DEFINITION. The data types every other file uses: the octet (R6), the 16-bit checksum word (R4, R60) and the
opaque user context (R10, D19). -/

namespace Sys2Proof

/-- The unit of data: an unsigned 8-bit value (00_scope.md R6). -/
abbrev Byte := BitVec 8

/-- A `u16`: the width of the CRC (00_scope.md R4, R9). -/
abbrev Word := BitVec 16

/-- The "opaque user context pointer passed through unmodified to all three capabilities" (10_state.md R16).
The block never looks inside, so a token stands for it. DESIGN CHOICE (log 17), safe. -/
structure Ctx where
  token : Nat
deriving DecidableEq, Repr

end Sys2Proof
end

