-- ==== Sys2Proof/Config.lean ====
section
/-! DEFINITION. What is fixed for the machine: the five constants of 00_scope.md R4, the parameters the spec leaves
open (as values without a body), and the values the model names for reset. -/

namespace Sys2Proof.Config

/-- `FLAG`, the boundary octet (R4). -/
abbrev FLAG : Byte := 0x7E#8

/-- `ESC`, the escape octet (R4). -/
abbrev ESC : Byte := 0x7D#8

/-- `INV`, the mask that inverts bit 5 of an escaped octet (R4). -/
abbrev INV : Byte := 0x20#8

/-- `CRC_INIT`, the seed of the checksum of every new frame (R4). -/
abbrev CRC_INIT : Word := 0xFFFF#16

/-- `CRC_POLY_REFLECTED`, the reflected form of x^16 + x^12 + x^5 + 1 (R4). -/
abbrev CRC_POLY_REFLECTED : Word := 0x8408#16

/-- The least `BUF_BYTES` the contract admits: "must be at least 3 bytes" (R5). -/
abbrev minBufBytes : Nat := 3

/-- FREE VALUE (log 2, safe): what index `i` of the buffer holds after the `n`-th `INIT` while nothing has stored
there: "any value: a draw per octet" (93_implementation_defined.md U4, D6). Applied to the number of `INIT`s and the index. -/
opaque unwrittenOctet : Nat → Nat → Byte

/-- FREE VALUE (log 14, safe): how far below -1 the construction error lies. -/
opaque initErrMagnitude : Nat

/-- `INIT_ERR`: some negative integer (60_exceptions.md R101, D4, U9); nothing else is known of it. -/
def initErr : Int := Int.negSucc initErrMagnitude

/-- `BUF_BYTES` of the session the machine is reset to. DESIGN CHOICE (log 1), unsafe: the spec makes it an operand of `INIT`. -/
def bufBytesAtReset : Nat := 32

/-- The user context of the session the machine is reset to. DESIGN CHOICE (log 1), unsafe. -/
def ctxAtReset : Ctx := ⟨0⟩

end Sys2Proof.Config
end

