-- ==== Sys2Proof/Syntax.lean ====
section
/-! DEFINITION. The instructions: one constructor for each row of spec/opcode_table.json. -/

namespace Sys2Proof

/-- The operands of `INIT` (70_reset_and_hazards.md R120). The handle, the buffer and the three capabilities are
references, of which the block sees only whether they are present. -/
structure InitArgs where
  /-- The session handle is present (not a null handle). -/
  handle     : Bool
  /-- The buffer is present (not a null pointer). -/
  buffer     : Bool
  /-- `BUF_BYTES`, the size of the buffer in octets. -/
  bufBytes   : Nat
  capOutput  : Bool
  capFlush   : Bool
  capDeliver : Bool
  userCtx    : Ctx
deriving DecidableEq, Repr

/-- One constructor per row of the opcode table. -/
inductive Instr where
  /-- `RX_FLAG_ABORT`: a boundary octet while an escape is pending (R47, R82). -/
  | rxFlagAbort
  /-- `RX_FLAG_CLOSE`: a boundary octet while none is (R47, R83, R84). -/
  | rxFlagClose
  /-- `RX_ESC`: an escape octet while none is pending (R47, R86). -/
  | rxEsc
  /-- `RX_DATA`: any other octet while no escape is pending (R47, R87). -/
  | rxData (b : Byte)
  /-- `RX_DATA_ESCAPED`: any octet but the flag while an escape is pending (R47, R88). -/
  | rxDataEscaped (b : Byte)
  /-- `TX_ESCAPED_7E`: the octet 0x7E under the escaping rule (R52, R72). -/
  | txEscaped7E
  /-- `TX_ESCAPED_7D`: the octet 0x7D under the escaping rule (R52, R72). -/
  | txEscaped7D
  /-- `TX_LITERAL`: any other octet (R52, R72). -/
  | txLiteral (b : Byte)
  /-- `INIT`: construct the session (R120). -/
  | init (args : InitArgs)
  /-- `CRC_STEP`: fold one octet into a checksum (R60, R61). -/
  | crcStep (crc : Word) (b : Byte)
  /-- `SEND`: encode and emit a message (R70, R78). -/
  | send (msg : List Byte)
  /-- `RX_BYTE`: one received octet (R81, R91). -/
  | rxByte (b : Byte)
  /-- `RX_BUF`: received octets in order (R93). -/
  | rxBuf (octets : List Byte)
  /-- `TX_FLAG`: steps 1 and 4 of `SEND` (R71, R75). -/
  | txFlag
  /-- `TX_PUT`: emit one octet under the escaping rule (R72). -/
  | txPut (b : Byte)
  /-- `TX_PAYLOAD`: step 2 of `SEND` (R73). -/
  | txPayload (msg : List Byte)
  /-- `TX_CRC`: step 3 of `SEND` (R74). -/
  | txCrc
  /-- `TX_FLUSH`: step 5 of `SEND` (R76). -/
  | txFlush
deriving DecidableEq, Repr

end Sys2Proof
end

