-- ==== Sys2Proof/WellFormed.lean ====
section
/-! DEFINITION. Which terms of `Instr` stand for a row of the map: the octet of a class row is one that R47 or R52
classifies to that row. The operations of R7 take every operand, so they are always well formed. -/

namespace Sys2Proof

/-- "The set of reserved octets is `{FLAG, ESC}`" (00_scope.md R4). -/
abbrev reservedOctet (b : Byte) : Bool := b == Config.FLAG || b == Config.ESC

/-- The operand of a class row is in the row's class (30_encoding.md R47, R52). -/
def Instr.wellFormed : Instr → Bool
  | .rxData b => !reservedOctet b
  | .rxDataEscaped b => b != Config.FLAG
  | .txLiteral b => !reservedOctet b
  | .rxFlagAbort => true
  | .rxFlagClose => true
  | .rxEsc => true
  | .txEscaped7E => true
  | .txEscaped7D => true
  | .init _ => true
  | .crcStep _ _ => true
  | .send _ => true
  | .rxByte _ => true
  | .rxBuf _ => true
  | .txFlag => true
  | .txPut _ => true
  | .txPayload _ => true
  | .txCrc => true
  | .txFlush => true

end Sys2Proof
end

