-- ==== Sys2Proof/Decode.lean ====
section
/-! DEFINITION. The received-octet map (30_encoding.md R47) and the transmitted-octet map (R52) as tables of match and
mask, the decoder that reads them, total on any bytes, and the encoder. A received word is the nine bits
`{escape_pending, b}` laid out in two bytes, the octet first; a transmitted word is the one octet `b` (log 7). -/

namespace Sys2Proof

/-- Why bytes are no word of the maps. -/
inductive DecodeError where
  /-- Neither one byte (a transmitted octet) nor two (a received word). -/
  | noSuchLength (n : Nat)
  /-- A bit above bit 8, the mode bit, is set in a received word. -/
  | bitAboveMode (hi : Byte)
  /-- No row of the map matches. -/
  | noRow
deriving DecidableEq, Repr

/-- One row of a map: it matches a word `w` when `w &&& mask = pattern`; rows are tried in their order. -/
structure MapRow (n : Nat) where
  mask    : BitVec n
  pattern : BitVec n
  build   : Byte → Instr

/-- The five classes of a received octet "as match and mask on the 9-bit word `{escape_pending, b}`" (R47), in the
table's order. -/
def rxRows : List (MapRow 9) :=
  [ ⟨0x1FF#9, 0x17E#9, fun _ => .rxFlagAbort⟩,
    ⟨0x1FF#9, 0x07E#9, fun _ => .rxFlagClose⟩,
    ⟨0x1FF#9, 0x07D#9, fun _ => .rxEsc⟩,
    ⟨0x100#9, 0x000#9, fun b => .rxData b⟩,
    ⟨0x100#9, 0x100#9, fun b => .rxDataEscaped b⟩ ]

/-- The three rows of a transmitted octet (R52), in the table's order. -/
def txRows : List (MapRow 8) :=
  [ ⟨0xFF#8, 0x7E#8, fun _ => .txEscaped7E⟩,
    ⟨0xFF#8, 0x7D#8, fun _ => .txEscaped7D⟩,
    ⟨0x00#8, 0x00#8, fun b => .txLiteral b⟩ ]

/-- The first row that matches `w`, given the octet `b` of the word. -/
def lookupRow {n : Nat} (w : BitVec n) (b : Byte) : List (MapRow n) → Except DecodeError Instr
  | [] => .error .noRow
  | r :: rows => if w &&& r.mask = r.pattern then .ok (r.build b) else lookupRow w b rows

/-- The 9-bit word `{escape_pending, b}` (R47). -/
def rxWord (escapePending : Bool) (b : Byte) : BitVec 9 := BitVec.ofBool escapePending ++ b

/-- The bytes a received word is laid out in: the octet, then the mode bit. -/
def rxWordBytes (escapePending : Bool) (b : Byte) : List Byte :=
  [b, if escapePending then 1#8 else 0#8]

/-- The decoder: one byte is a transmitted octet, two are a received word; everything else is refused by name. -/
def decode : List Byte → Except DecodeError Instr
  | [] => .error (.noSuchLength 0)
  | [b] => lookupRow b b txRows
  | [b, hi] =>
    if hi = 0#8 then lookupRow (rxWord false b) b rxRows
    else if hi = 1#8 then lookupRow (rxWord true b) b rxRows
    else .error (.bitAboveMode hi)
  | _ :: _ :: _ :: rest => .error (.noSuchLength (rest.length + 3))

/-- The class of a received octet by the tests "in priority order" (R47, R81): `FLAG` first, then `ESC`, then
everything else. -/
def rxClass (escapePending : Bool) (b : Byte) : Instr :=
  if b = Config.FLAG then
    if escapePending then .rxFlagAbort else .rxFlagClose
  else if b = Config.ESC ∧ escapePending = false then .rxEsc
  else if escapePending then .rxDataEscaped b
  else .rxData b

/-- The class of an octet given to `TX_PUT` (R52). -/
def txClass (b : Byte) : Instr :=
  if b = Config.FLAG then .txEscaped7E
  else if b = Config.ESC then .txEscaped7D
  else .txLiteral b

/-- The bytes of a class row; the operations and sub-operations have none (R53). -/
def encode : Instr → Option (List Byte)
  | .rxFlagAbort => some [0x7E#8, 1#8]
  | .rxFlagClose => some [0x7E#8, 0#8]
  | .rxEsc => some [0x7D#8, 0#8]
  | .rxData b => some [b, 0#8]
  | .rxDataEscaped b => some [b, 1#8]
  | .txEscaped7E => some [0x7E#8]
  | .txEscaped7D => some [0x7D#8]
  | .txLiteral b => some [b]
  | .init _ => none
  | .crcStep _ _ => none
  | .send _ => none
  | .rxByte _ => none
  | .rxBuf _ => none
  | .txFlag => none
  | .txPut _ => none
  | .txPayload _ => none
  | .txCrc => none
  | .txFlush => none

/-- The bytes of an opcode-table word of `nbits` bits: up to 8 bits are one byte, up to 16 are two, least significant
byte first (bit 8, the mode bit, is then bit 0 of the second byte). -/
def tableWordBytes (nbits w : Nat) : Option (List Byte) :=
  if nbits = 0 ∨ 16 < nbits then none
  else if nbits ≤ 8 then
    if w < 256 then some [BitVec.ofNat 8 w] else none
  else
    if w < 65536 then some [BitVec.ofNat 8 w, BitVec.ofNat 8 (w / 256)] else none

/-- The instruction the decoder reads from a word numbered as spec/opcode_table.json numbers it. -/
def decodeTableWord (nbits w : Nat) : Option Instr :=
  match tableWordBytes nbits w with
  | none => none
  | some bytes =>
    match decode bytes with
    | .ok i => some i
    | .error _ => none

end Sys2Proof
end

