-- ==== Sys2Proof/Machine/State.lean ====
section
/-! DEFINITION. Everything the spec gives the machine (10_state.md R10, R17; 00_scope.md R8), as plain data, the reasons
a step can stop, and the state after reset (R26). INVENTORY.md's State section lists the fields with their rules. -/

namespace Sys2Proof.Machine

/-- Octets that have been stored since the last `INIT`, as (index, octet) pairs with strictly rising indices. An index
that is not listed has no known octet: what it reads as is a free value (log 2). -/
abbrev Memory := List Host.Cell

/-- The three kinds of output events, each with the session's user context (00_scope.md R8). -/
inductive Event where
  | emit (ctx : Ctx) (b : Byte)
  | flush (ctx : Ctx)
  | deliver (ctx : Ctx) (payload : List Byte)
deriving DecidableEq, Repr

/-- What an operation returns (00_scope.md R7): the outcome of `INIT`, two-valued as D4 asks, or the checksum of
`CRC_STEP`. `SEND`, `RX_BYTE` and `RX_BUF` return nothing. -/
inductive Returned where
  | initOk
  | initError
  | crc (w : Word)
deriving DecidableEq, Repr

/-- What the delivery capability may try while a `Deliver` event is in progress (70_reset_and_hazards.md R124, D2). -/
inductive CapCall where
  /-- `SEND` on the same session: allowed (D2). -/
  | send (msg : List Byte)
  /-- `RX_BYTE` or `RX_BUF` on the same session: forbidden (R124, U2). -/
  | feed (octets : List Byte)
  /-- `INIT` on the same session: two operations of one session overlap (R126, U3). -/
  | construct (args : InitArgs)
deriving DecidableEq, Repr

/-- One thing the host does next (log 6). -/
inductive Input where
  /-- An entry point, or a sub-operation standing alone, invoked with its operands; it has no numeric encoding (R53). -/
  | call (i : Instr)
  /-- The next octet of the received stream (20_memory.md R30, R40), classified under the mode bit (R47). -/
  | rxOctet (b : Byte)
  /-- An octet for `TX_PUT` to classify (R52). -/
  | txOctet (b : Byte)
deriving DecidableEq, Repr

/-- The machine: one session, its encoder's local state, its outputs, and the host's side of the interface. -/
structure State where
  /-- `capacity`: `BUF_BYTES - 1` (R11). -/
  capacity      : Nat
  /-- `escape_pending` (R12). -/
  escapePending : Bool
  /-- `write_offset` (R13). -/
  writeOffset   : Nat
  /-- `running_crc` (R14). -/
  runningCrc    : Word
  /-- `reassembly_buffer`: the octets stored since `INIT` (R15, R31). -/
  buffer        : Memory
  /-- `cap_output` is present (R16). -/
  capOutput     : Bool
  /-- `cap_flush` is present (R16). -/
  capFlush      : Bool
  /-- `cap_deliver` is present (R16). -/
  capDeliver    : Bool
  /-- `user_ctx` (R16, D19). -/
  userCtx       : Ctx
  /-- `tx_crc`, local to a `SEND` (R17). -/
  txCrc         : Word
  /-- The index of the next message octet, local to a `SEND` (R17). -/
  txIndex       : Nat
  /-- The events raised so far, in order (R8). -/
  trace         : List Event
  /-- What the latest operation returned, if it returns anything (R7, D1). -/
  returned      : Option Returned
  /-- The model's own: what the host does next, oldest first (log 6). -/
  inputs        : List Input
  /-- The model's own: what the delivery capability does in each coming `Deliver`, next first; nothing once the list is
  empty (log 10). -/
  deliverPlan   : List (List CapCall)
  /-- The model's own: the last `INIT` of this session succeeded (R121, U5; log 13). -/
  usable        : Bool
  /-- The model's own: how many `INIT`s have succeeded, which the free value of an unwritten octet is applied to (log 2). -/
  initCount     : Nat
deriving DecidableEq, Repr

/-- Why the machine stops with a fault. -/
inductive Fault where
  /-- Raised by the buffer accesses of `RX_BYTE`, `RX_BUF` and the received-octet classes at an index that is not one of
  `0 .. BUF_BYTES - 1` (20_memory.md R30). Safe: no run from `INIT` comes to such a state (42_decoder.md R96; log 18). -/
  | indexOutsideBuffer
deriving DecidableEq, Repr

/-- Why the model gives an instruction no meaning where it stands. -/
inductive Refusal where
  /-- Raised by `exec` alone, for an instruction without a meaning yet. Safe. -/
  | notModelled (mnemonic : String)
  /-- Raised by every instruction but `INIT` and `CRC_STEP` on a session that no successful `INIT` stands behind:
  "using it for `SEND`/`RX_BYTE` is `refuse`" (U5). Safe (log 13). -/
  | sessionNotInitialised
  /-- Raised by `INIT` with `BUF_BYTES < 3`: "the model has no such session" (U1, D8). Safe (log 12). -/
  | bufBytesBelowThree
  /-- Raised by a delivery during which the capability feeds the session (U2). Safe (log 10). -/
  | reentrantFeed
  /-- Raised by a delivery during which the capability constructs the session again (U3). Safe (log 10). -/
  | overlappingOperation
  /-- Raised by a class row in a mode, or with an octet, that R47 or R52 do not classify to it. Safe (log 8). -/
  | notThisClass
  /-- Raised by `step` for an octet whose word the decoder refuses; there is none (R47, R52). Safe (log 7). -/
  | undecodable (e : DecodeError)
deriving DecidableEq, Repr

/-- The state after reset: a fresh decoder (R26), the session a successful `INIT` leaves. The size of its buffer, the
presence of its capabilities and its context are DESIGN CHOICES (log 1), as are the encoder's local state (log 5) and the
model's own fields (log 2, log 6, log 10, log 13, log 20). -/
def State.reset : State where
  capacity      := Config.bufBytesAtReset - 1
  escapePending := false
  writeOffset   := 0
  runningCrc    := Config.CRC_INIT
  buffer        := []
  capOutput     := true
  capFlush      := true
  capDeliver    := true
  userCtx       := Config.ctxAtReset
  txCrc         := Config.CRC_INIT
  txIndex       := 0
  trace         := []
  returned      := none
  inputs        := []
  deliverPlan   := []
  usable        := true
  initCount     := 0

end Sys2Proof.Machine
end

