-- ==== Sys2Proof/Machine/Operands.lean ====
section
/-! DEFINITION. The operand forms of the spec and its arithmetic on values, without state: halves and concatenation
(R9), the escaping rule (R46, R52), the checksum (R60 to R62), the wire frame (R78), and the number `INIT` returns (D4). -/

namespace Sys2Proof.Machine

/-- `lo8(w) = w[7:0]` (00_scope.md R9). -/
def lo8 (w : Word) : Byte := w.extractLsb' 0 8

/-- `hi8(w) = w[15:8]` (00_scope.md R9). -/
def hi8 (w : Word) : Byte := w.extractLsb' 8 8

/-- `{hi, lo}`: two octets as a `u16`, zero-extended, nothing scaled or complemented (R9, 30_encoding.md R48). -/
def concat16 (hi lo : Byte) : Word := (hi.setWidth 16 <<< 8) ||| lo.setWidth 16

/-- The test of the escaping rule, made on the value before inversion (41_encoder.md R72). -/
def mustEscape (b : Byte) : Bool := b == Config.FLAG || b == Config.ESC

/-- The value with bit 5 inverted: what follows `ESC` on the wire (R46), and what is stored for an octet received after
one (30_encoding.md R50). -/
def invertBit5 (b : Byte) : Byte := b ^^^ Config.INV

/-- One iteration of the checksum's loop: shift right, and exclusive-or the polynomial when the bit shifted out is 1
(40_crc.md R61). -/
def crcShift (c : Word) : Word :=
  if c.getLsbD 0 then (c >>> 1) ^^^ Config.CRC_POLY_REFLECTED else c >>> 1

/-- `n` iterations of the loop. -/
def crcShifts : Nat → Word → Word
  | 0, c => c
  | n + 1, c => crcShifts n (crcShift c)

/-- `CRC_STEP`: the octet meets the low 8 bits of the checksum, then eight shifts, low bit first (40_crc.md R61).
PRESUMED: the spec supplies the body from general knowledge (G1, D9; log 4), unsafe. -/
def crcStep (crc : Word) (b : Byte) : Word := crcShifts 8 (crc ^^^ b.setWidth 16)

/-- `crc_fold`: octets folded in order, first octet first (40_crc.md R62). -/
def crcFold : Word → List Byte → Word
  | c, [] => c
  | c, b :: rest => crcFold (crcStep c b) rest

/-- The octets one octet of the payload or the CRC field is written as on the wire (30_encoding.md R46). -/
def escOctet (b : Byte) : List Byte :=
  if mustEscape b then [Config.ESC, invertBit5 b] else [b]

/-- `esc` of 41_encoder.md R78. -/
def escOctets : List Byte → List Byte
  | [] => []
  | b :: rest => escOctet b ++ escOctets rest

/-- The CRC field of a payload: low octet first (20_memory.md R32). -/
def crcField (payload : List Byte) : List Byte :=
  [lo8 (crcFold Config.CRC_INIT payload), hi8 (crcFold Config.CRC_INIT payload)]

/-- `encode(msg)` of 41_encoder.md R78, the wire frame of 30_encoding.md R45. -/
def wireFrame (msg : List Byte) : List Byte :=
  [Config.FLAG] ++ escOctets msg ++ escOctet (lo8 (crcFold Config.CRC_INIT msg))
    ++ escOctet (hi8 (crcFold Config.CRC_INIT msg)) ++ [Config.FLAG]

/-- The number `INIT` returns: 0 for success, `INIT_ERR` for the construction error (60_exceptions.md R101, D4). -/
def initReturnValue : Returned → Option Int
  | .initOk => some 0
  | .initError => some Config.initErr
  | .crc _ => none

end Sys2Proof.Machine
end

