-- ==== Sys2Proof/Machine/Flags.lean ====
section
/-! DEFINITION. The block's one flag, `escape_pending` (10_state.md R12), and the state names, which are predicates on it
and on `write_offset`, not a register (R22). -/

namespace Sys2Proof.Machine

/-- Set by exactly one transition: an `ESC` octet received while it is false (R12, 42_decoder.md R86). -/
def setEscape (s : State) : State := { s with escapePending := true }

/-- Cleared by exactly two: a `FLAG` (42_decoder.md R82) and any other octet (R88) received while it is true (R12). -/
def clearEscape (s : State) : State := { s with escapePending := false }

/-- `IDLE`: only the predicate `write_offset == 0` (R22, C7). -/
def isIdle (s : State) : Bool := s.writeOffset == 0

/-- `ACCUMULATING` (R22). -/
def isAccumulating (s : State) : Bool := decide (0 < s.writeOffset)

/-- `ESCAPED`, orthogonal to the other two (R22). -/
def isEscaped (s : State) : Bool := s.escapePending

end Sys2Proof.Machine
end

