-- ==== Sys2Proof/Machine/Ops.lean ====
section
/-! DEFINITION. The named operations the meanings are made of: the buffer, the decoder's registers, taking an anomaly
(`discard_and_reset`, the block's whole trap entry), storing an octet, the events, the steps of `SEND`, and the
delivery of a frame. -/

namespace Sys2Proof.Machine

/-- How a step ends. -/
abbrev Answer := Host.Outcome State Fault Refusal

/-- Go on with `k` from the next state, if there is one. -/
def andThen (o : Answer) (k : State → Answer) : Answer :=
  match o with
  | .next s => k s
  | .fault f => .fault f
  | .refused r => .refused r

/-! ### The reassembly buffer -/

/-- The octet stored at an index, if one was. -/
def Memory.read? : Memory → Nat → Option Byte
  | [], _ => none
  | c :: m, i => if c.1 = i then some c.2 else Memory.read? m i

/-- Store one octet, keeping the indices strictly rising. -/
def Memory.write : Memory → Nat → Byte → Memory
  | [], i, v => [(i, v)]
  | c :: m, i, v =>
    if i < c.1 then (i, v) :: c :: m
    else if i = c.1 then (i, v) :: m
    else c :: Memory.write m i v

/-- The canonical form: strictly rising indices. No listed octet equals what an unlisted index reads as, because an
unlisted index reads as no known octet. -/
abbrev Memory.wf (m : Memory) : Prop := m.Pairwise (fun a b => a.1 < b.1)

/-- `BUF_BYTES`: the buffer has `capacity` octets and one guard byte (10_state.md R11). -/
def State.bufBytes (s : State) : Nat := s.capacity + 1

/-- `MemRead(i, 1)` (00_scope.md R9). An octet nothing has stored since `INIT` is a free value (U4; log 2). -/
def memRead (s : State) (i : Nat) : Byte :=
  (Memory.read? s.buffer i).getD (Config.unwrittenOctet s.initCount i)

/-- Store the octet at index `write_offset` (42_decoder.md R89). -/
def storeOctet (v : Byte) (s : State) : State :=
  { s with buffer := Memory.write s.buffer s.writeOffset v }

/-! ### The decoder's registers -/

/-- `discard_and_reset()`: "the block's whole trap entry" (60_exceptions.md R106). It saves nothing and transfers control
nowhere; the anomalies A1 to A4 (R102 to R105) and the end of every valid frame take it (42_decoder.md R85). -/
def discardAndReset (s : State) : State :=
  { s with writeOffset := 0, runningCrc := Config.CRC_INIT }

/-- Fold the octet two positions behind the one just stored, once there is one (42_decoder.md R89, C4). -/
def foldLagged (s : State) : State :=
  if 2 ≤ s.writeOffset then
    { s with runningCrc := crcStep s.runningCrc (memRead s (s.writeOffset - 2)) }
  else s

/-- `write_offset <- write_offset + 1` (42_decoder.md R89). -/
def advanceOffset (s : State) : State := { s with writeOffset := s.writeOffset + 1 }

/-- `oversize_check()`: anomaly A4 (42_decoder.md R90, 60_exceptions.md R105). -/
def oversizeCheck (s : State) : State :=
  if s.writeOffset = s.capacity then discardAndReset s else s

/-- `accumulate(v)`: store, fold with a lag of two, increment, test for oversize (42_decoder.md R89, R90). -/
def accumulate (v : Byte) (s : State) : Answer :=
  if s.writeOffset < s.bufBytes then
    .next (oversizeCheck (advanceOffset (foldLagged (storeOctet v s))))
  else .fault .indexOutsideBuffer

/-- `received_crc = {buf[write_offset-1], buf[write_offset-2]}` (30_encoding.md R48, 20_memory.md R32). -/
def receivedCrc (s : State) : Word :=
  concat16 (memRead s (s.writeOffset - 1)) (memRead s (s.writeOffset - 2))

/-- The accumulated octets but the last two: `buf[0 .. write_offset-3]` (30_encoding.md R49). -/
def payloadSpan (s : State) : List Byte := (List.range (s.writeOffset - 2)).map (memRead s)

/-! ### Events -/

/-- Append an event to the trace (00_scope.md R9). -/
def record (e : Event) (s : State) : State := { s with trace := s.trace ++ [e] }

/-- `emit Emit(b)`; "if the sink capability is absent, emission is a no-op" (41_encoder.md R77). -/
def emitOctet (b : Byte) (s : State) : State :=
  if s.capOutput then record (.emit s.userCtx b) s else s

/-- `emit Flush`; nothing when the flush capability is absent (41_encoder.md R76, R77, D7; log 9). -/
def emitFlush (s : State) : State :=
  if s.capFlush then record (.flush s.userCtx) s else s

/-! ### The steps of `SEND` -/

/-- `TX_PUT(b)`: the escaping rule (41_encoder.md R72). -/
def putOctet (b : Byte) (s : State) : State :=
  if mustEscape b then emitOctet (invertBit5 b) (emitOctet Config.ESC s) else emitOctet b s

/-- One iteration of the payload loop: fold the value before escaping, then emit the octet (41_encoder.md R73). -/
def payloadIteration (b : Byte) (s : State) : State :=
  putOctet b { s with txCrc := crcStep s.txCrc b, txIndex := s.txIndex + 1 }

/-- The payload loop from message index `txIndex`, at most `n` iterations (41_encoder.md R73). -/
def payloadLoop : Nat → List Byte → State → State
  | 0, _, s => s
  | n + 1, msg, s =>
    match msg[s.txIndex]? with
    | none => s
    | some b => payloadLoop n msg (payloadIteration b s)

/-- `TX_PAYLOAD`: seed the local accumulator, then the loop over the whole message (41_encoder.md R73). -/
def sendPayload (msg : List Byte) (s : State) : State :=
  payloadLoop msg.length msg { s with txCrc := Config.CRC_INIT, txIndex := 0 }

/-- `TX_CRC`: the two CRC octets, low first, each under the escaping rule (41_encoder.md R74). -/
def sendCrc (s : State) : State := putOctet (hi8 s.txCrc) (putOctet (lo8 s.txCrc) s)

/-- `SEND`: the five steps in the source's order (41_encoder.md R78). The accumulator and the index are local to the
`SEND` and leave nothing behind (R79, 10_state.md R17; log 5). -/
def sendMessage (msg : List Byte) (s : State) : State :=
  let t := emitFlush (emitOctet Config.FLAG (sendCrc (sendPayload msg (emitOctet Config.FLAG s))))
  { t with txCrc := s.txCrc, txIndex := s.txIndex }

/-! ### Delivery -/

/-- What the delivery capability does before it returns: each `SEND` behaves as R78 (D2), feeding or constructing the
session has no meaning (70_reset_and_hazards.md R124, R126, U2, U3; log 10). -/
def runConsumer : List CapCall → State → Answer
  | [], s => .next s
  | .send msg :: calls, s => runConsumer calls (sendMessage msg s)
  | .feed _ :: _, _ => .refused .reentrantFeed
  | .construct _ :: _, _ => .refused .overlappingOperation

/-- `emit Deliver(p)`: the event with a copy of the payload (20_memory.md R37, D14), then what the capability does;
nothing when it is absent (42_decoder.md R83, D7; log 9). -/
def deliver (p : List Byte) (s : State) : Answer :=
  if s.capDeliver then
    runConsumer (s.deliverPlan.headD [])
      { record (.deliver s.userCtx p) s with deliverPlan := s.deliverPlan.tail }
  else .next s

/-- A boundary octet that is not aborted: deliver a valid frame, then reset; otherwise only reset (42_decoder.md R83 to
R85; anomalies A2 and A3 of 60_exceptions.md). The CRC field is read only when `write_offset >= 2`. -/
def closeFrame (s : State) : Answer :=
  if 2 ≤ s.writeOffset then
    if s.writeOffset ≤ s.bufBytes then
      if s.runningCrc = receivedCrc s then
        andThen (deliver (payloadSpan s) s) (fun t => .next (discardAndReset t))
      else .next (discardAndReset s)
    else .fault .indexOutsideBuffer
  else .next (discardAndReset s)

/-- A boundary octet while an escape is pending: anomaly A1, no validity test, no delivery (42_decoder.md R82,
60_exceptions.md R102). -/
def abortFrame (s : State) : State := discardAndReset (clearEscape s)

/-! ### Entering an operation -/

/-- Clear the returned value: the operation that begins returns nothing unless it says so (log 20). -/
def clearReturned (s : State) : State := { s with returned := none }

/-- An operation on the session: refused where no successful `INIT` stands behind it (U5; log 13). -/
def inSession (k : State → Answer) (s : State) : Answer :=
  if s.usable then k (clearReturned s) else .refused .sessionNotInitialised

/-- A received-octet class runs where the octet and the mode bit classify to it (30_encoding.md R47; log 8). -/
def inRxClass (i : Instr) (b : Byte) (k : State → Answer) (s : State) : Answer :=
  if rxClass s.escapePending b = i then k s else .refused .notThisClass

/-- A transmitted-octet class runs where the octet classifies to it (30_encoding.md R52; log 8). -/
def inTxClass (i : Instr) (b : Byte) (k : State → Answer) (s : State) : Answer :=
  if txClass b = i then k s else .refused .notThisClass

/-- Take the first pending input. -/
def takeInput (rest : List Input) (s : State) : State := { s with inputs := rest }

end Sys2Proof.Machine
end

