-- ==== Sys2Proof/Machine/Construct.lean ====
section
/-! DEFINITION. The meaning of `INIT` (70_reset_and_hazards.md). -/

namespace Sys2Proof.Machine

/-- A successful `INIT`: the configuration is replaced, the decoder's registers take their reset values, and the buffer is
the caller's, its contents not written and so unknown (R120, R26, D6, D21; log 2, log 15). -/
def constructSession (a : InitArgs) (s : State) : State :=
  { s with
    buffer        := []
    initCount     := s.initCount + 1
    capacity      := a.bufBytes - 1
    capOutput     := a.capOutput
    capFlush      := a.capFlush
    capDeliver    := a.capDeliver
    userCtx       := a.userCtx
    escapePending := false
    writeOffset   := 0
    runningCrc    := Config.CRC_INIT
    returned      := some .initOk
    usable        := true }

/-- `raise InitError`: "no partial initialization occurs" (60_exceptions.md R101, R121). Where a handle was given, the
session behind it must not be used (R121, U5; log 13). -/
def raiseInitError (a : InitArgs) (s : State) : State :=
  { s with returned := some .initError, usable := s.usable && !a.handle }

/-- `INIT` (R120); `BUF_BYTES < 3` is outside the contract and refused (U1, D8; log 12). -/
def execInit (a : InitArgs) (s : State) : Answer :=
  if a.handle && a.buffer then
    if Config.minBufBytes ≤ a.bufBytes then .next (constructSession a s)
    else .refused .bufBytesBelowThree
  else .next (raiseInitError a s)

end Sys2Proof.Machine
end

