-- ==== Sys2Proof/Machine/Crc.lean ====
section
/-! DEFINITION. The meaning of `CRC_STEP` (40_crc.md). -/

namespace Sys2Proof.Machine

/-- `CRC_STEP`: a pure function of its operands; it reads and writes no session state and needs no `INIT` (40_crc.md R60,
95_test_vectors.md PR5). -/
def execCrcStep (crc : Word) (b : Byte) (s : State) : Answer :=
  .next { s with returned := some (.crc (crcStep crc b)) }

end Sys2Proof.Machine
end

