-- ==== Sys2Proof/Machine/Rx.lean ====
section
/-! DEFINITION. The meanings of the decoder: `RX_BYTE`, `RX_BUF` and the received-octet classes (42_decoder.md). -/

namespace Sys2Proof.Machine

/-- `RX_FLAG_ABORT` (R82, R85). -/
def execRxFlagAbort (s : State) : Answer :=
  inSession (inRxClass .rxFlagAbort Config.FLAG fun t => .next (abortFrame t)) s

/-- `RX_FLAG_CLOSE` (R83, R84, R85). -/
def execRxFlagClose (s : State) : Answer :=
  inSession (inRxClass .rxFlagClose Config.FLAG closeFrame) s

/-- `RX_ESC` (R86). -/
def execRxEsc (s : State) : Answer :=
  inSession (inRxClass .rxEsc Config.ESC fun t => .next (setEscape t)) s

/-- `RX_DATA` (R87). -/
def execRxData (b : Byte) (s : State) : Answer :=
  inSession (inRxClass (.rxData b) b (accumulate b)) s

/-- `RX_DATA_ESCAPED`: the flag is cleared and the octet stored with bit 5 inverted (R88). -/
def execRxDataEscaped (b : Byte) (s : State) : Answer :=
  inSession (inRxClass (.rxDataEscaped b) b fun t => accumulate (invertBit5 b) (clearEscape t)) s

/-- The per-octet transition, "in priority order" (R81, R91, 60_exceptions.md R108). -/
def receiveOctet (b : Byte) (s : State) : Answer :=
  if b = Config.FLAG then
    if s.escapePending then .next (abortFrame s) else closeFrame s
  else if b = Config.ESC ∧ s.escapePending = false then .next (setEscape s)
  else if s.escapePending then accumulate (invertBit5 b) (clearEscape s)
  else accumulate b s

/-- "Feeding a buffer of N bytes is equivalent to N sequential single-byte transitions" (R93). -/
def receiveOctets : List Byte → State → Answer
  | [], s => .next s
  | b :: rest, s => andThen (receiveOctet b s) (receiveOctets rest)

/-- `RX_BYTE` (R81, R91). -/
def execRxByte (b : Byte) (s : State) : Answer := inSession (receiveOctet b) s

/-- `RX_BUF` (R93). -/
def execRxBuf (octets : List Byte) (s : State) : Answer := inSession (receiveOctets octets) s

end Sys2Proof.Machine
end

