-- ==== Sys2Proof/Machine/Tx.lean ====
section
/-! DEFINITION. The meanings of the encoder: `SEND`, its sub-operations and the transmitted-octet classes
(41_encoder.md). -/

namespace Sys2Proof.Machine

/-- `TX_ESCAPED_7E`: `Emit(0x7D)`, `Emit(0x5E)` (30_encoding.md R52). -/
def execTxEscaped7E (s : State) : Answer :=
  inSession (inTxClass .txEscaped7E 0x7E#8 fun t => .next (emitOctet 0x5E#8 (emitOctet 0x7D#8 t))) s

/-- `TX_ESCAPED_7D`: `Emit(0x7D)`, `Emit(0x5D)` (30_encoding.md R52). -/
def execTxEscaped7D (s : State) : Answer :=
  inSession (inTxClass .txEscaped7D 0x7D#8 fun t => .next (emitOctet 0x5D#8 (emitOctet 0x7D#8 t))) s

/-- `TX_LITERAL`: `Emit(b)` (30_encoding.md R52). -/
def execTxLiteral (b : Byte) (s : State) : Answer :=
  inSession (inTxClass (.txLiteral b) b fun t => .next (emitOctet b t)) s

/-- `TX_FLAG`: `Emit(0x7E)`, never escaped, outside the CRC (R71, R75). -/
def execTxFlag (s : State) : Answer := inSession (fun t => .next (emitOctet Config.FLAG t)) s

/-- `TX_PUT` (R72). -/
def execTxPut (b : Byte) (s : State) : Answer := inSession (fun t => .next (putOctet b t)) s

/-- `TX_PAYLOAD` (R73). -/
def execTxPayload (msg : List Byte) (s : State) : Answer := inSession (fun t => .next (sendPayload msg t)) s

/-- `TX_CRC` (R74). -/
def execTxCrc (s : State) : Answer := inSession (fun t => .next (sendCrc t)) s

/-- `TX_FLUSH` (R76). -/
def execTxFlush (s : State) : Answer := inSession (fun t => .next (emitFlush t)) s

/-- `SEND` (R70, R78). -/
def execSend (msg : List Byte) (s : State) : Answer := inSession (fun t => .next (sendMessage msg t)) s

end Sys2Proof.Machine
end

