-- ==== Sys2Proof/Machine/Dispatch.lean ====
section
/-! DEFINITION. From an instruction to its meaning: one arm per constructor. -/

namespace Sys2Proof.Machine

def exec (i : Instr) (s : State) : Host.Outcome State Fault Refusal :=
  match i with
  | .rxFlagAbort => Sys2Proof.Machine.execRxFlagAbort s
  | .rxFlagClose => Sys2Proof.Machine.execRxFlagClose s
  | .rxEsc => Sys2Proof.Machine.execRxEsc s
  | .rxData b => Sys2Proof.Machine.execRxData b s
  | .rxDataEscaped b => Sys2Proof.Machine.execRxDataEscaped b s
  | .txEscaped7E => Sys2Proof.Machine.execTxEscaped7E s
  | .txEscaped7D => Sys2Proof.Machine.execTxEscaped7D s
  | .txLiteral b => Sys2Proof.Machine.execTxLiteral b s
  | .init args => Sys2Proof.Machine.execInit args s
  | .crcStep crc b => Sys2Proof.Machine.execCrcStep crc b s
  | .send msg => Sys2Proof.Machine.execSend msg s
  | .rxByte b => Sys2Proof.Machine.execRxByte b s
  | .rxBuf octets => Sys2Proof.Machine.execRxBuf octets s
  | .txFlag => Sys2Proof.Machine.execTxFlag s
  | .txPut b => Sys2Proof.Machine.execTxPut b s
  | .txPayload msg => Sys2Proof.Machine.execTxPayload msg s
  | .txCrc => Sys2Proof.Machine.execTxCrc s
  | .txFlush => Sys2Proof.Machine.execTxFlush s

end Sys2Proof.Machine
end

