-- ==== Sys2Proof/Machine/Step.lean ====
section
/-! DEFINITION. One step of the machine: take the host's next input and run it to completion (20_memory.md R36). The
block has no program counter and fetches no instructions (10_state.md R22); what it takes, one octet at a time and in
order, is the received stream (R40). With nothing to do it holds its state (60_exceptions.md R113). -/

namespace Sys2Proof.Machine

/-- Run the instruction the decoder reads from the bytes of a word. -/
def runWord (bytes : List Byte) (s : State) : Host.Outcome State Fault Refusal :=
  match decode bytes with
  | .ok i => exec i s
  | .error e => .refused (.undecodable e)

/-- One step. A received octet is decoded as the word `{escape_pending, b}` (30_encoding.md R47). -/
def step (s : State) : Host.Outcome State Fault Refusal :=
  match s.inputs with
  | [] => .next s
  | .call i :: rest => exec i (takeInput rest s)
  | .rxOctet b :: rest => runWord (rxWordBytes s.escapePending b) (takeInput rest s)
  | .txOctet b :: rest => runWord [b] (takeInput rest s)

/-- Place an opcode-table word so that the next step runs it (log 6, log 7): a word of up to 8 bits is an octet for
`TX_PUT`'s classification; of a longer one, bits 7 to 0 are the next octet of the received stream and bit 8 is the mode
bit `escape_pending` itself. -/
def State.withFetchWord (s : State) (nbits w : Nat) : State :=
  if nbits ≤ 8 then { s with inputs := .txOctet (BitVec.ofNat 8 w) :: s.inputs }
  else
    { s with
      escapePending := Nat.testBit w 8
      inputs := .rxOctet (BitVec.ofNat 8 w) :: s.inputs }

end Sys2Proof.Machine
end

