-- ==== Sys2Proof/Safety.lean ====
section
/-! DEFINITION. The terms claims are stated in: the invariant of a session between operations, the premises a claim may
assume at launch (70_reset_and_hazards.md R132), what an operation leaves alone, and views of the trace. -/

namespace Sys2Proof.Machine

/-- What holds of a session between operations. -/
structure State.Inv (s : State) : Prop where
  /-- `BUF_BYTES >= 3`, so `capacity >= 2` (00_scope.md R5). -/
  capacity_ge : 2 ≤ s.capacity
  /-- `0 <= write_offset < capacity` (10_state.md R18). -/
  offset_lt : s.writeOffset < s.capacity
  /-- The buffer's canonical form. -/
  buffer_wf : Memory.wf s.buffer
  /-- The decoder writes only indices `0 .. capacity-1`; the guard byte is never written (20_memory.md R31). -/
  below_guard : ∀ c ∈ s.buffer, c.1 < s.capacity
  /-- The octets `buf[0 .. write_offset-1]` are defined (20_memory.md R31). -/
  accumulated : ∀ i, i < s.writeOffset → (Memory.read? s.buffer i).isSome
  /-- The CRC lags the write offset by two octets (10_state.md R19). -/
  crc_lags : s.runningCrc = crcFold Config.CRC_INIT (payloadSpan s)

/-- The delivery capability does nothing to the session but `SEND` (70_reset_and_hazards.md R124, D2). -/
def State.ConsumerSendsOnly (s : State) : Prop :=
  ∀ calls ∈ s.deliverPlan, ∀ c ∈ calls, ∃ msg, c = .send msg

/-- "What a claim about this block may assume at launch" (70_reset_and_hazards.md R132), beside the invariant: a successful
`INIT` has been performed, and the delivery capability does not feed the session. -/
structure State.Launched (s : State) : Prop where
  usable : s.usable = true
  consumer : s.ConsumerSendsOnly

/-- The decoder stands in the state `(0, 0, 0xFFFF)`: a fresh decoder, or any decoder just after a `FLAG` (42_decoder.md R97). -/
structure State.AtRest (s : State) : Prop where
  offset : s.writeOffset = 0
  escape : s.escapePending = false
  crc : s.runningCrc = Config.CRC_INIT

/-- The configuration, and the model's record of `INIT`s, are as before. -/
structure SameConfiguration (s t : State) : Prop where
  capacity : t.capacity = s.capacity
  capOutput : t.capOutput = s.capOutput
  capFlush : t.capFlush = s.capFlush
  capDeliver : t.capDeliver = s.capDeliver
  userCtx : t.userCtx = s.userCtx
  usable : t.usable = s.usable
  initCount : t.initCount = s.initCount

/-- The encoder's local state is as before. -/
structure SameEncoder (s t : State) : Prop where
  txCrc : t.txCrc = s.txCrc
  txIndex : t.txIndex = s.txIndex

/-- The host's side is as before. -/
structure SameHostSide (s t : State) : Prop where
  inputs : t.inputs = s.inputs
  deliverPlan : t.deliverPlan = s.deliverPlan

/-- The decoder's registers and every octet of the buffer are as before. -/
structure SameDecoder (s t : State) : Prop where
  escapePending : t.escapePending = s.escapePending
  writeOffset : t.writeOffset = s.writeOffset
  runningCrc : t.runningCrc = s.runningCrc
  octets : ∀ a, memRead t a = memRead s a

/-- The payload of a `Deliver` event. -/
def Event.payload? : Event → Option (List Byte)
  | .deliver _ p => some p
  | .emit _ _ => none
  | .flush _ => none

/-- The octet of an `Emit` event. -/
def Event.octet? : Event → Option Byte
  | .emit _ b => some b
  | .deliver _ _ => none
  | .flush _ => none

/-- The payloads of the `Deliver` events of a trace, in order. -/
def deliveries (es : List Event) : List (List Byte) := es.filterMap Event.payload?

/-- The octets of the `Emit` events of a trace, in order. -/
def emissions (es : List Event) : List Byte := es.filterMap Event.octet?

/-- The `Emit` events of octets, none when the output capability is absent (41_encoder.md R77). -/
def emitEvents (s : State) (octets : List Byte) : List Event :=
  if s.capOutput then octets.map (Event.emit s.userCtx) else []

/-- The `Flush` event, none when the flush capability is absent. -/
def flushEvents (s : State) : List Event :=
  if s.capFlush then [Event.flush s.userCtx] else []

/-- The events of one `SEND` (41_encoder.md R78). -/
def sendEvents (s : State) (msg : List Byte) : List Event :=
  emitEvents s (wireFrame msg) ++ flushEvents s

/-- The accumulated octets end in their own CRC (42_decoder.md R83). -/
def State.HoldsValidFrame (s : State) : Prop :=
  2 ≤ s.writeOffset ∧ s.runningCrc = receivedCrc s

/-- Two states that agree on everything but the buffer's octets from `write_offset` on and the number of `INIT`s, that is,
on the contents the spec leaves unspecified (10_state.md R26, U4). -/
structure AgreeButUnwritten (s t : State) : Prop where
  rest : t = { s with buffer := t.buffer, initCount := t.initCount }
  accumulated : ∀ i, i < s.writeOffset → memRead t i = memRead s i

end Sys2Proof.Machine
end

