-- ==== Sys2Proof/Certificates/Slice0/Obligations.lean ====
section
/-! DEFINITION. The statements for the provers. Each docstring names the rule of spec/ it formalises, or says what it rests on. -/

open Sys2Proof Sys2Proof.Machine

/-! ### The checksum -/

/-- `CRC_STEP` returns its value in every state, a session or not, and changes nothing else (40_crc.md R60). -/
def Obligations.CrcStepReturnsItsValueAndTouchesNoState : Prop :=
  ∀ (c : Word) (b : Byte) (s : State),
    exec (.crcStep c b) s = .next { s with returned := some (.crc (crcStep c b)) }

/-- Linear over exclusive-or, a bijection for a fixed octet, and dependent on the low half and the octet only through
their exclusive-or (40_crc.md R64, which derives all three from R61; the step's body is log 4's). -/
def Obligations.CrcStepIsLinearBijectiveAndTableDriven : Prop :=
  (∀ c₁ c₂ b₁ b₂, crcStep (c₁ ^^^ c₂) (b₁ ^^^ b₂) = crcStep c₁ b₁ ^^^ crcStep c₂ b₂) ∧
  (∀ b, Function.Bijective fun c => crcStep c b) ∧
  (∀ c b, crcStep c b = (c >>> 8) ^^^ crcStep 0#16 (lo8 c ^^^ b))

/-- The shift form equals the loop (40_crc.md R65, from general knowledge; log 4). -/
def Obligations.CrcStepEqualsItsShiftForm : Prop :=
  ∀ (c : Word) (b d₀ d : Byte), d₀ = b ^^^ lo8 c → d = d₀ ^^^ (d₀ <<< 4) →
    crcStep c b =
      ((concat16 d 0#8 ||| (hi8 c).setWidth 16) ^^^ (d >>> 4).setWidth 16) ^^^ (d.setWidth 16 <<< 3)

/-- Folding a payload and then its own CRC field, low octet first, gives zero, from any accumulator
(40_crc.md R63, derived there from R61; log 4). -/
def Obligations.FoldingAFrameBodyLeavesZero : Prop :=
  (∀ c : Word, crcFold c [lo8 c, hi8 c] = 0#16) ∧
  (∀ p : List Byte, crcFold Config.CRC_INIT (p ++ crcField p) = 0#16)

/-! ### The encoder -/

/-- `TX_FLAG` emits the boundary octet and changes nothing else; with the output capability absent it raises no event
(41_encoder.md R71, R77). -/
def Obligations.TxFlagEmitsTheBoundaryOctet : Prop :=
  ∀ s : State, s.usable = true →
    exec .txFlag s = .next { s with returned := none, trace := s.trace ++ emitEvents s [0x7E#8] }

/-- `TX_PUT`: 0x7E and 0x7D are emitted as two octets, every other octet as itself (41_encoder.md R72). -/
def Obligations.TxPutFollowsTheEscapingRule : Prop :=
  ∀ (s : State) (b : Byte), s.usable = true →
    exec (.txPut b) s = .next { s with
      returned := none
      trace := s.trace ++ emitEvents s
        (if b = 0x7E#8 ∨ b = 0x7D#8 then [0x7D#8, b ^^^ 0x20#8] else [b]) }

/-- The three rows of the transmitted-octet map emit what 30_encoding.md R52's table says, and `TX_PUT` does what the row
of its octet does. -/
def Obligations.TxClassesEmitTheirOctets : Prop :=
  ∀ (s : State) (b : Byte), s.usable = true →
    exec .txEscaped7E s =
      .next { s with returned := none, trace := s.trace ++ emitEvents s [0x7D#8, 0x5E#8] } ∧
    exec .txEscaped7D s =
      .next { s with returned := none, trace := s.trace ++ emitEvents s [0x7D#8, 0x5D#8] } ∧
    (b ≠ 0x7E#8 → b ≠ 0x7D#8 → exec (.txLiteral b) s =
      .next { s with returned := none, trace := s.trace ++ emitEvents s [b] }) ∧
    exec (.txPut b) s = exec (txClass b) s

/-- `TX_PAYLOAD`: the accumulator ends at the fold of the unescaped message from 0xFFFF, and every octet is emitted under
the escaping rule (41_encoder.md R73). -/
def Obligations.TxPayloadFoldsAndEmitsTheMessage : Prop :=
  ∀ (s : State) (msg : List Byte), s.usable = true →
    exec (.txPayload msg) s = .next { s with
      returned := none
      txCrc := crcFold 0xFFFF#16 msg
      txIndex := msg.length
      trace := s.trace ++ emitEvents s (escOctets msg) }

/-- `TX_CRC`: the accumulator's two octets, low first, each under the escaping rule, the accumulator itself unchanged
(41_encoder.md R74). -/
def Obligations.TxCrcEmitsLowThenHigh : Prop :=
  ∀ s : State, s.usable = true →
    exec .txCrc s = .next { s with
      returned := none
      trace := s.trace ++ emitEvents s (escOctet (lo8 s.txCrc) ++ escOctet (hi8 s.txCrc)) }

/-- `TX_FLUSH` raises one `Flush` and changes nothing else (41_encoder.md R76; that an absent flush capability means no
event is D7, log 9). -/
def Obligations.TxFlushRaisesOneFlush : Prop :=
  ∀ s : State, s.usable = true →
    exec .txFlush s = .next { s with returned := none, trace := s.trace ++ flushEvents s }

/-- `SEND` emits the wire frame of its message, octet by octet, then flushes, and writes nothing else
(41_encoder.md R78). Both capabilities are present; `SendWithAbsentCapabilities` is the rest. -/
def Obligations.SendEmitsTheWireFrameThenFlushes : Prop :=
  ∀ (s : State) (msg : List Byte), s.usable = true → s.capOutput = true → s.capFlush = true →
    exec (.send msg) s = .next { s with
      returned := none
      trace := s.trace ++ (wireFrame msg).map (Event.emit s.userCtx) ++ [Event.flush s.userCtx] }

/-- With the output or the flush capability absent `SEND` completes all the same, without the events of the absent one
(41_encoder.md R77; for the flush capability this is the spec's own decision D7, log 9). -/
def Obligations.SendWithAbsentCapabilities : Prop :=
  ∀ (s : State) (msg : List Byte), s.usable = true → s.capOutput = false ∨ s.capFlush = false →
    exec (.send msg) s = .next { s with
      returned := none
      trace := s.trace ++ ((if s.capOutput then (wireFrame msg).map (Event.emit s.userCtx) else [])
        ++ (if s.capFlush then [Event.flush s.userCtx] else [])) }

/-- Running `TX_FLAG`, `TX_PAYLOAD`, `TX_CRC`, `TX_FLAG`, `TX_FLUSH` one after another does what `SEND` does, but for the
encoder's local state, which `SEND` leaves alone (41_encoder.md R70 to R76; that the local state is held in State is log 5). -/
def Obligations.SendIsItsFiveStepsInOrder : Prop :=
  ∀ (s : State) (msg : List Byte), s.usable = true → ∃ t,
    exec (.send msg) s = .next t ∧
    andThen (exec .txFlag s) (fun a =>
      andThen (exec (.txPayload msg) a) fun b =>
      andThen (exec .txCrc b) fun c =>
      andThen (exec .txFlag c) fun d => exec .txFlush d) =
      .next { t with txCrc := crcFold 0xFFFF#16 msg, txIndex := msg.length }

/-- The length of an encoded frame and its bounds (30_encoding.md R55, derived there). -/
def Obligations.WireFrameHasTheStatedLength : Prop :=
  ∀ p : List Byte,
    (wireFrame p).length = p.length + 4 + (p ++ crcField p).countP (fun b => mustEscape b) ∧
    p.length + 4 ≤ (wireFrame p).length ∧ (wireFrame p).length ≤ 2 * p.length + 8

/-- "The encoder emits `0x7E` only as a flag and `0x7D` only as the first octet of a pair" (30_encoding.md R52, derived). -/
def Obligations.WireFrameReservedOctetsOnlyFrameAndEscape : Prop :=
  ∀ p : List Byte, ∃ mid, wireFrame p = 0x7E#8 :: (mid ++ [0x7E#8]) ∧
    0x7E#8 ∉ mid ∧
    ∀ pre post, mid = pre ++ 0x7D#8 :: post →
      ∃ x rest, post = x :: rest ∧ (x = 0x5E#8 ∨ x = 0x5D#8)

/-- A `SEND` before an `RX_BYTE` or after it: the decoder ends in the same state and the same payloads are delivered, and
the same octets are emitted, in the same order unless the consumer sent something itself (10_state.md R17, derived there;
41_encoder.md R79). -/
def Obligations.SendDoesNotDisturbReception : Prop :=
  ∀ (s t₁ t₂ : State) (msg : List Byte) (b : Byte),
    andThen (exec (.send msg) s) (exec (.rxByte b)) = .next t₁ →
    andThen (exec (.rxByte b) s) (exec (.send msg)) = .next t₂ →
    SameDecoder t₁ t₂ ∧ SameConfiguration t₁ t₂ ∧ SameEncoder t₁ t₂ ∧ SameHostSide t₁ t₂ ∧
    deliveries t₁.trace = deliveries t₂.trace ∧
    (emissions t₁.trace).Perm (emissions t₂.trace) ∧
    (s.deliverPlan.headD [] = [] → emissions t₁.trace = emissions t₂.trace)

/-! ### The decoder -/

/-- The map of match and mask and the tests in priority order agree on every word (30_encoding.md R47). -/
def Obligations.ReceivedMapAgreesWithPriorityTests : Prop :=
  ∀ (e : Bool) (b : Byte), decode (rxWordBytes e b) = .ok (rxClass e b)

/-- `RX_BYTE` does what the class of its octet under the mode bit does, in every state (42_decoder.md R81). -/
def Obligations.RxByteRunsTheClassOfItsOctet : Prop :=
  ∀ (s : State) (b : Byte), exec (.rxByte b) s = exec (rxClass s.escapePending b) s

/-- `RX_FLAG_ABORT`: whatever was accumulated is dropped without a test or a delivery; the buffer is not touched
(42_decoder.md R82). -/
def Obligations.RxFlagAbortDiscardsWithoutLooking : Prop :=
  ∀ s : State, s.usable = true → s.escapePending = true →
    exec .rxFlagAbort s = .next { s with
      returned := none, escapePending := false, writeOffset := 0, runningCrc := 0xFFFF#16 }

/-- `RX_FLAG_CLOSE` on a valid frame: the payload is delivered, then the registers are reset (42_decoder.md R83). The
capability makes no call of its own here (`ConsumerSendsInsideADelivery` says what its `SEND`s do), and it is present
(`ValidFrameWithoutADeliveryCapability` is the rest). -/
def Obligations.RxFlagCloseDeliversAValidFrame : Prop :=
  ∀ s : State, s.usable = true → s.escapePending = false → s.writeOffset ≤ s.bufBytes →
    2 ≤ s.writeOffset →
    s.runningCrc = concat16 (memRead s (s.writeOffset - 1)) (memRead s (s.writeOffset - 2)) →
    s.capDeliver = true → s.deliverPlan.headD [] = [] →
    exec .rxFlagClose s = .next { s with
      returned := none
      writeOffset := 0
      runningCrc := 0xFFFF#16
      trace := s.trace ++
        [Event.deliver s.userCtx ((List.range (s.writeOffset - 2)).map (memRead s))]
      deliverPlan := s.deliverPlan.tail }

/-- A valid frame with the delivery capability absent: it is validated, no event is raised, and the reset happens all the
same (the spec's own decision D7; log 9). -/
def Obligations.ValidFrameWithoutADeliveryCapability : Prop :=
  ∀ s : State, s.usable = true → s.escapePending = false → s.writeOffset ≤ s.bufBytes →
    s.HoldsValidFrame → s.capDeliver = false →
    exec .rxFlagClose s = .next { s with
      returned := none, writeOffset := 0, runningCrc := 0xFFFF#16 }

/-- `RX_FLAG_CLOSE` on a frame that is too short or whose CRC differs: silently discarded (42_decoder.md R84). -/
def Obligations.RxFlagCloseDiscardsAnInvalidFrame : Prop :=
  ∀ s : State, s.usable = true → s.escapePending = false → s.writeOffset ≤ s.bufBytes →
    (s.writeOffset < 2 ∨
      s.runningCrc ≠ concat16 (memRead s (s.writeOffset - 1)) (memRead s (s.writeOffset - 2))) →
    exec .rxFlagClose s = .next { s with
      returned := none, writeOffset := 0, runningCrc := 0xFFFF#16 }

/-- After any boundary octet the decoder is at rest, whatever it held before, and the buffer is as it was
(42_decoder.md R85). -/
def Obligations.BoundaryOctetResynchronises : Prop :=
  ∀ s : State, s.Inv → s.Launched → ∃ t,
    exec (.rxByte 0x7E#8) s = .next t ∧ t.AtRest ∧ (∀ a, memRead t a = memRead s a) ∧
    SameConfiguration s t ∧ SameEncoder s t ∧ t.inputs = s.inputs

/-- `RX_ESC`: the flag is set; nothing is stored and nothing else changes (42_decoder.md R86). -/
def Obligations.RxEscSetsTheFlagOnly : Prop :=
  ∀ s : State, s.usable = true → s.escapePending = false →
    exec .rxEsc s = .next { s with returned := none, escapePending := true }

/-- `RX_DATA` stores its octet unmodified at `write_offset`, folds the octet two positions behind it, advances, and drops
the accumulation when the offset reaches `capacity` (42_decoder.md R87, R89). -/
def Obligations.RxDataStoresFoldsAndAdvances : Prop :=
  ∀ (s : State) (b : Byte), s.usable = true → s.escapePending = false → b ≠ 0x7E#8 → b ≠ 0x7D#8 →
    s.writeOffset < s.bufBytes → ∃ t,
    exec (.rxData b) s = .next t ∧
    memRead t s.writeOffset = b ∧ (∀ a, a ≠ s.writeOffset → memRead t a = memRead s a) ∧
    t.escapePending = false ∧
    (s.writeOffset + 1 ≠ s.capacity →
      t.writeOffset = s.writeOffset + 1 ∧
      t.runningCrc = if 2 ≤ s.writeOffset
        then crcStep s.runningCrc (memRead s (s.writeOffset - 2)) else s.runningCrc) ∧
    (s.writeOffset + 1 = s.capacity → t.writeOffset = 0 ∧ t.runningCrc = 0xFFFF#16) ∧
    t.trace = s.trace ∧ t.returned = none ∧
    SameConfiguration s t ∧ SameEncoder s t ∧ SameHostSide s t

/-- `RX_DATA_ESCAPED` clears the flag and stores its octet with bit 5 inverted, then goes on as `RX_DATA` does
(42_decoder.md R88). -/
def Obligations.RxDataEscapedStoresTheInvertedOctet : Prop :=
  ∀ (s : State) (b : Byte), s.usable = true → s.escapePending = true → b ≠ 0x7E#8 →
    s.writeOffset < s.bufBytes → ∃ t,
    exec (.rxDataEscaped b) s = .next t ∧
    memRead t s.writeOffset = b ^^^ 0x20#8 ∧
    (∀ a, a ≠ s.writeOffset → memRead t a = memRead s a) ∧
    t.escapePending = false ∧
    (s.writeOffset + 1 ≠ s.capacity →
      t.writeOffset = s.writeOffset + 1 ∧
      t.runningCrc = if 2 ≤ s.writeOffset
        then crcStep s.runningCrc (memRead s (s.writeOffset - 2)) else s.runningCrc) ∧
    (s.writeOffset + 1 = s.capacity → t.writeOffset = 0 ∧ t.runningCrc = 0xFFFF#16) ∧
    t.trace = s.trace ∧ t.returned = none ∧
    SameConfiguration s t ∧ SameEncoder s t ∧ SameHostSide s t

/-- The stored octet that makes `write_offset` reach `capacity` is written at index `capacity - 1` and dropped with the
rest, without an event; the buffer keeps its contents and the decoder is at rest (42_decoder.md R90). -/
def Obligations.OversizeDropsTheAccumulation : Prop :=
  ∀ (s : State) (b : Byte), s.usable = true → s.writeOffset + 1 = s.capacity →
    b ≠ 0x7E#8 → (b = 0x7D#8 → s.escapePending = true) → ∃ t,
    exec (.rxByte b) s = .next t ∧ t.AtRest ∧ t.trace = s.trace ∧
    memRead t (s.capacity - 1) = (if s.escapePending then b ^^^ 0x20#8 else b) ∧
    (∀ a, a ≠ s.capacity - 1 → memRead t a = memRead s a) ∧
    SameConfiguration s t ∧ SameEncoder s t ∧ SameHostSide s t

/-- `RX_BYTE` completes for every octet in every state the launch premises admit: "the decoder never raises a fault to its
caller" (42_decoder.md R95), and the premises hold again afterwards. -/
def Obligations.RxByteCompletes : Prop :=
  ∀ (s : State) (b : Byte), s.Inv → s.Launched → ∃ t,
    exec (.rxByte b) s = .next t ∧ t.Inv ∧ t.Launched ∧
    SameConfiguration s t ∧ SameEncoder s t ∧ t.inputs = s.inputs

/-- `RX_BUF` is `RX_BYTE` on each octet in order, each run to its end before the next (42_decoder.md R93). -/
def Obligations.RxBufIsRxBytePerOctet : Prop :=
  ∀ (s : State) (octets : List Byte), s.usable = true →
    exec (.rxBuf octets) s =
      octets.foldl (fun o b => andThen o (exec (.rxByte b))) (.next { s with returned := none })

/-- A sequence may be split anywhere, inside a frame or an escape pair, and the empty sequence is a no-op but for the
returned value, which is the model's (42_decoder.md R93, 20_memory.md R34, derived there; log 20). -/
def Obligations.RxBufSplitsAnywhere : Prop :=
  ∀ (s : State) (xs ys : List Byte), s.usable = true →
    exec (.rxBuf []) s = .next { s with returned := none } ∧
    exec (.rxBuf (xs ++ ys)) s = andThen (exec (.rxBuf xs) s) (exec (.rxBuf ys))

/-- `RX_BUF` completes for every sequence under the launch premises (42_decoder.md R93, R95; 70_reset_and_hazards.md R132). -/
def Obligations.RxBufCompletes : Prop :=
  ∀ (s : State) (octets : List Byte), s.Inv → s.Launched → ∃ t,
    exec (.rxBuf octets) s = .next t ∧ t.Inv ∧ t.Launched ∧
    SameConfiguration s t ∧ SameEncoder s t ∧ t.inputs = s.inputs

/-- `escape_pending` "is never true across more than one byte" (10_state.md R20): true before an octet, it is false after
it; and it is true after an octet only if that was `ESC` with the flag false before. -/
def Obligations.EscapePendingLastsOneOctet : Prop :=
  ∀ (s t : State) (b : Byte), exec (.rxByte b) s = .next t →
    (s.escapePending = true → t.escapePending = false) ∧
    (t.escapePending = true → b = 0x7D#8 ∧ s.escapePending = false)

/-- The transitions of the source's named states on one octet (42_decoder.md R94, 10_state.md R22). -/
def Obligations.NamedStatesMoveAsStated : Prop :=
  ∀ (s t : State) (b : Byte), s.Inv → exec (.rxByte b) s = .next t →
    (b = 0x7E#8 → isIdle t = true ∧ isEscaped t = false) ∧
    (b = 0x7D#8 → isEscaped s = false →
      isEscaped t = true ∧ isIdle t = isIdle s ∧ isAccumulating t = isAccumulating s) ∧
    (b ≠ 0x7E#8 → (b = 0x7D#8 → isEscaped s = true) →
      isEscaped t = false ∧
      (s.writeOffset + 1 < s.capacity → isAccumulating t = true ∧ t.writeOffset = s.writeOffset + 1) ∧
      (s.writeOffset + 1 = s.capacity → isIdle t = true))

/-- The `SEND`s a delivery capability makes inside a `Deliver` stand in the trace after the `Deliver` and before whatever
follows, and touch no decoder state (D2, R124: the spec allows them by its own decision; log 10). -/
def Obligations.ConsumerSendsInsideADelivery : Prop :=
  ∀ (s : State) (msgs : List (List Byte)), s.usable = true → s.escapePending = false →
    s.writeOffset ≤ s.bufBytes → s.HoldsValidFrame → s.capDeliver = true →
    s.deliverPlan.headD [] = msgs.map CapCall.send →
    exec .rxFlagClose s = .next { s with
      returned := none
      writeOffset := 0
      runningCrc := 0xFFFF#16
      trace := s.trace ++ Event.deliver s.userCtx (payloadSpan s) :: msgs.flatMap (sendEvents s)
      deliverPlan := s.deliverPlan.tail }

/-- A delivery capability that feeds or constructs the session during its `Deliver` gives the run no meaning: the model
refuses it by name, after whatever `SEND`s it made first (U2, U3; log 10). -/
def Obligations.ReentrantConsumerIsRefused : Prop :=
  ∀ (s : State) (msgs : List (List Byte)) (octets : List Byte) (a : InitArgs) (rest : List CapCall),
    s.usable = true → s.escapePending = false →
    s.writeOffset ≤ s.bufBytes → s.HoldsValidFrame → s.capDeliver = true →
    (s.deliverPlan.headD [] = msgs.map CapCall.send ++ .feed octets :: rest →
      exec .rxFlagClose s = .refused .reentrantFeed) ∧
    (s.deliverPlan.headD [] = msgs.map CapCall.send ++ .construct a :: rest →
      exec .rxFlagClose s = .refused .overlappingOperation)

/-- A class row presented in a mode, or with an octet, that the maps do not classify to it is refused by name: the maps give
such a row no meaning there (30_encoding.md R47, R52; the refusal is log 8's). -/
def Obligations.ClassRowsRunOnlyInTheirClass : Prop :=
  ∀ (s : State) (b : Byte), s.usable = true →
    (s.escapePending = false → exec .rxFlagAbort s = .refused .notThisClass) ∧
    (s.escapePending = true → exec .rxFlagClose s = .refused .notThisClass ∧
      exec .rxEsc s = .refused .notThisClass) ∧
    (s.escapePending = true ∨ b = 0x7E#8 ∨ b = 0x7D#8 → exec (.rxData b) s = .refused .notThisClass) ∧
    (s.escapePending = false ∨ b = 0x7E#8 → exec (.rxDataEscaped b) s = .refused .notThisClass) ∧
    (b = 0x7E#8 ∨ b = 0x7D#8 → exec (.txLiteral b) s = .refused .notThisClass)

/-- In a state no run reaches, with `write_offset` beyond the buffer, a store or the reading of the CRC field faults by name
rather than touching an octet that does not exist (20_memory.md R30; the fault is log 18's). -/
def Obligations.IndexOutsideTheBufferFaults : Prop :=
  ∀ (s : State) (b : Byte), s.usable = true → b ≠ 0x7E#8 →
    (s.bufBytes ≤ s.writeOffset → s.escapePending = false → b ≠ 0x7D#8 →
      exec (.rxData b) s = .fault .indexOutsideBuffer) ∧
    (s.bufBytes ≤ s.writeOffset → s.escapePending = true →
      exec (.rxDataEscaped b) s = .fault .indexOutsideBuffer) ∧
    (s.bufBytes < s.writeOffset → 2 ≤ s.writeOffset → s.escapePending = false →
      exec .rxFlagClose s = .fault .indexOutsideBuffer)

/-! ### The whole block -/

/-- Feeding an encoded frame delivers its payload: exactly once and nothing else from a decoder at rest, once more after at
most one other delivery from any state, and not at all when the payload is too long for the buffer
(42_decoder.md R97, derived there; the range is 30_encoding.md R56's). -/
def Obligations.EncodedFramesRoundTrip : Prop :=
  ∀ (s : State) (p : List Byte), s.Inv → s.Launched → s.capDeliver = true → ∃ t,
    exec (.rxBuf (wireFrame p)) s = .next t ∧ t.AtRest ∧
    (p.length + 3 ≤ s.capacity →
      (s.AtRest → deliveries t.trace = deliveries s.trace ++ [p]) ∧
      (∃ pre, pre.length ≤ 1 ∧ deliveries t.trace = deliveries s.trace ++ pre ++ [p])) ∧
    (s.capacity < p.length + 3 → s.AtRest →
      ∃ others, deliveries t.trace = deliveries s.trace ++ others ∧ p ∉ others)

/-- Concatenated encoded frames fed in one call are delivered one by one, in order (95_test_vectors.md P7, 42_decoder.md R93). -/
def Obligations.ConcatenatedFramesAreDeliveredInOrder : Prop :=
  ∀ (s : State) (ps : List (List Byte)), s.Inv → s.Launched → s.capDeliver = true → s.AtRest →
    (∀ p ∈ ps, p.length + 3 ≤ s.capacity) → ∃ t,
    exec (.rxBuf (ps.flatMap wireFrame)) s = .next t ∧ t.AtRest ∧
    deliveries t.trace = deliveries s.trace ++ ps

/-- What `SEND` emits, fed back into the same session, delivers the message (95_test_vectors.md P1, P6, PR1; 42_decoder.md R97). -/
def Obligations.LoopbackDeliversTheMessage : Prop :=
  ∀ (s : State) (msg : List Byte), s.Inv → s.Launched → s.AtRest →
    s.capOutput = true → s.capDeliver = true → msg.length + 3 ≤ s.capacity → ∃ t u out,
    exec (.send msg) s = .next t ∧ emissions t.trace = emissions s.trace ++ out ∧
    exec (.rxBuf out) t = .next u ∧ u.AtRest ∧
    deliveries u.trace = deliveries s.trace ++ [msg]

/-- Whatever is fed, every payload delivered fits: with its CRC field and one octet more it is no longer than `capacity`,
and it carries the session's context (30_encoding.md R56, derived there). -/
def Obligations.EveryDeliveredPayloadFits : Prop :=
  ∀ (s t : State) (octets : List Byte), s.Inv → exec (.rxBuf octets) s = .next t → ∃ new,
    t.trace = s.trace ++ new ∧
    ∀ ctx p, Event.deliver ctx p ∈ new → p.length + 3 ≤ s.capacity ∧ ctx = s.userCtx

/-- One bit wrong in one accumulated octet of a valid frame, payload or CRC, and the frame is not delivered
(42_decoder.md R97: the rejection property in the form that holds, derived there; the body of `CRC_STEP` is log 4's). -/
def Obligations.SingleBitErrorPreventsDelivery : Prop :=
  ∀ (s t : State) (j k : Nat), s.Inv → t.Inv → s.usable = true → s.escapePending = false →
    s.HoldsValidFrame → t.usable = true → t.escapePending = false →
    t.writeOffset = s.writeOffset → j < s.writeOffset → k < 8 →
    memRead t j = memRead s j ^^^ (1#8 <<< k) →
    (∀ a, a < s.writeOffset → a ≠ j → memRead t a = memRead s a) →
    exec .rxFlagClose t = .next { t with
      returned := none, writeOffset := 0, runningCrc := 0xFFFF#16 }

/-- Two sessions that differ only in octets nothing has stored since the last reset of `write_offset`, and in the draw
behind them, raise the same events on every sequence of octets, and stay so related (10_state.md R26, U4, derived there). -/
def Obligations.UnwrittenOctetsNeverReachTheTrace : Prop :=
  ∀ (s t s' : State) (octets : List Byte), AgreeButUnwritten s t →
    exec (.rxBuf octets) s = .next s' →
    ∃ t', exec (.rxBuf octets) t = .next t' ∧ t'.trace = s'.trace ∧ AgreeButUnwritten s' t'

/-! ### Construction -/

/-- `INIT`: with a handle and a buffer of at least 3 octets, the configuration is the operands', the decoder is fresh and no
event is raised; without a handle or a buffer it returns the construction error and writes nothing of the session. It rests on
70_reset_and_hazards.md R120 and on choices that are not the source's: `running_crc` 0xFFFF after `INIT` is the spec's own D5
(log 3), `INIT` on a session in use is its D21 (log 15), and `usable` is the model's mark (log 13). Which octets the new buffer
holds is left open (log 2). -/
def Obligations.InitConstructsAFreshDecoder : Prop :=
  ∀ (s : State) (a : InitArgs),
    (a.handle = true → a.buffer = true → 3 ≤ a.bufBytes → ∃ t,
      exec (.init a) s = .next t ∧ t.returned = some .initOk ∧
      t.capacity = a.bufBytes - 1 ∧ t.capOutput = a.capOutput ∧ t.capFlush = a.capFlush ∧
      t.capDeliver = a.capDeliver ∧ t.userCtx = a.userCtx ∧ t.AtRest ∧ t.Inv ∧ t.usable = true ∧
      t.trace = s.trace ∧ SameEncoder s t ∧ SameHostSide s t) ∧
    (a.handle = false ∨ a.buffer = false → ∃ t,
      exec (.init a) s = .next t ∧ t.returned = some .initError ∧ t.trace = s.trace ∧
      SameDecoder s t ∧ t.capacity = s.capacity ∧ t.capOutput = s.capOutput ∧
      t.capFlush = s.capFlush ∧ t.capDeliver = s.capDeliver ∧ t.userCtx = s.userCtx)

/-- A failed `INIT` changes the returned value and, where a handle was given, the model's own mark that the session may not
be used; every other field of the state is as before (60_exceptions.md R101, R121; the mark is log 13's). -/
def Obligations.FailedInitWritesNothing : Prop :=
  ∀ (s : State) (a : InitArgs), a.handle = false ∨ a.buffer = false →
    exec (.init a) s = .next { s with
      returned := some .initError, usable := if a.handle then false else s.usable }

/-- `INIT` with `BUF_BYTES < 3` is refused by name: "the model has no such session" (U1, D8; log 12). -/
def Obligations.InitBelowThreeOctetsIsRefused : Prop :=
  ∀ (s : State) (a : InitArgs), a.handle = true → a.buffer = true → a.bufBytes < 3 →
    exec (.init a) s = .refused .bufBytesBelowThree

/-- The construction error is "a distinct negative return value" (60_exceptions.md R101); success is 0 by D4 (log 14). -/
def Obligations.ConstructionErrorIsNegativeAndDistinct : Prop :=
  (∃ n : Int, initReturnValue .initError = some n ∧ n < 0) ∧
  initReturnValue .initOk = some 0 ∧ initReturnValue .initError ≠ initReturnValue .initOk

/-- On a session whose `INIT` failed every instruction but `INIT` and `CRC_STEP` is refused by name (U5: "using it for
`SEND`/`RX_BYTE` is `refuse`"; log 13). -/
def Obligations.UnconstructedSessionIsRefused : Prop :=
  ∀ (s : State) (i : Instr), s.usable = false →
    (∀ a, i ≠ .init a) → (∀ c b, i ≠ .crcStep c b) →
    exec i s = .refused .sessionNotInitialised

/-! ### The machine -/

/-- After reset the decoder is fresh (10_state.md R26; `running_crc` there is the spec's own D5, log 3) and the invariant holds.
That reset is a constructed, usable session is the model's choice (log 1, log 13). -/
def Obligations.ResetIsAFreshDecoder : Prop :=
  State.reset.AtRest ∧ State.reset.Inv ∧ State.reset.Launched ∧ State.reset.trace = []

/-- Every step keeps the invariant: the offset stays below `capacity`, the CRC lags by two octets, the guard byte and the
canonical form are kept (10_state.md R18, R19; 20_memory.md R31). -/
def Obligations.EveryStepKeepsTheInvariant : Prop :=
  ∀ s t : State, s.Inv → step s = .next t → t.Inv

/-- From a state with the invariant no step ends in a fault, whatever the host does next (42_decoder.md R95, R96). -/
def Obligations.NoStepFaultsUnderTheInvariant : Prop :=
  ∀ (s : State) (f : Fault), s.Inv → step s ≠ .fault f

/-- A step runs the instruction of the first pending input: the one called, or the one the decoder reads from the octet's
word, with that input taken; with no input the machine holds its state (60_exceptions.md R113; log 6, log 7). -/
def Obligations.StepRunsTheDecodedInstruction : Prop :=
  ∀ (s : State) (i : Instr) (b : Byte) (rest : List Input),
    (s.inputs = [] → step s = .next s) ∧
    (s.inputs = .call i :: rest → step s = exec i { s with inputs := rest }) ∧
    (s.inputs = .rxOctet b :: rest → decode (rxWordBytes s.escapePending b) = .ok i →
      step s = exec i { s with inputs := rest }) ∧
    (s.inputs = .txOctet b :: rest → decode [b] = .ok i →
      step s = exec i { s with inputs := rest }) ∧
    (s.inputs = .rxOctet b :: rest → step s = exec (.rxByte b) { s with inputs := rest }) ∧
    (s.inputs = .txOctet b :: rest → step s = exec (.txPut b) { s with inputs := rest })

/-- A word of the opcode table placed with `withFetchWord` is what the next step runs, under the mode bit the word names
(30_encoding.md R47, R52; log 7). -/
def Obligations.PlacedTableWordRunsNext : Prop :=
  ∀ (s : State) (nbits w : Nat) (i : Instr), decodeTableWord nbits w = some i →
    step (s.withFetchWord nbits w) =
      exec i (if nbits ≤ 8 then s else { s with escapePending := Nat.testBit w 8 })

/-- A step takes exactly one input, and what it adds to the trace goes at the end (20_memory.md R39, R40; 00_scope.md R9). -/
def Obligations.StepTakesOneInputAndAppendsToTheTrace : Prop :=
  ∀ s t : State, step s = .next t → t.inputs = s.inputs.tail ∧ ∃ new, t.trace = s.trace ++ new

/-- No instruction but `INIT` changes the configuration, and the buffer's contents are not redrawn (10_state.md R11, R16, R23). -/
def Obligations.OnlyInitChangesTheConfiguration : Prop :=
  ∀ (s t : State) (i : Instr), (∀ a, i ≠ .init a) → exec i s = .next t → SameConfiguration s t

/-- Only the decoder's instructions touch the decoder's registers or the buffer (10_state.md R23, 41_encoder.md R79). -/
def Obligations.EncoderAndChecksumLeaveTheDecoderAlone : Prop :=
  ∀ (s t : State) (msg : List Byte) (b : Byte) (c : Word) (i : Instr),
    i ∈ [Instr.crcStep c b, .send msg, .txFlag, .txPut b, .txPayload msg, .txCrc, .txFlush,
      .txEscaped7E, .txEscaped7D, .txLiteral b] →
    exec i s = .next t → SameDecoder s t ∧ SameHostSide s t ∧ deliveries t.trace = deliveries s.trace

/-- No instruction but `INIT` changes an octet at or above `capacity`: the guard byte is never written, and no store leaves
the buffer (20_memory.md R31, derived there; 42_decoder.md R96). -/
def Obligations.GuardOctetIsNeverWritten : Prop :=
  ∀ (s t : State) (i : Instr), s.Inv → (∀ a, i ≠ .init a) → exec i s = .next t →
    ∀ j, s.capacity ≤ j → memRead t j = memRead s j

/-- Decoding inverts encoding on every well-formed class row, with every operand, and every word that decodes is the
encoding of what it decodes to; the operations have no word (30_encoding.md R47, R52, R53; the layout of a word in bytes is
log 7's). -/
def Obligations.DecodeAndEncodeAgree : Prop :=
  (∀ (i : Instr) (bytes : List Byte), i.wellFormed = true → encode i = some bytes → decode bytes = .ok i) ∧
  (∀ (i : Instr) (bytes : List Byte), decode bytes = .ok i → i.wellFormed = true ∧ encode i = some bytes)

/-- Eight words written out from 30_encoding.md R47 and R52, one of each class row. The last clause, that a received word with a
bit above the mode bit decodes to nothing, is the model's layout in bytes, not R47's (log 7, DEDUCED). -/
def Obligations.WordsOfTheMapsDecodeAsWritten : Prop :=
  decodeTableWord 16 0b101111110 = some .rxFlagAbort ∧
  decodeTableWord 16 0b001111110 = some .rxFlagClose ∧
  decodeTableWord 16 0b001111101 = some .rxEsc ∧
  decodeTableWord 16 0b001000001 = some (.rxData 0x41#8) ∧
  decodeTableWord 16 0b101111101 = some (.rxDataEscaped 0x7D#8) ∧
  decodeTableWord 8 0b01111110 = some .txEscaped7E ∧
  decodeTableWord 8 0b01111101 = some .txEscaped7D ∧
  decodeTableWord 8 0b01011110 = some (.txLiteral 0x5E#8) ∧
  decodeTableWord 16 0b1000000000 = none
end

