-- ==== Sys2Proof/Laws/State.lean ====
section
/-! SUPPORT. One lemma per field per update of State, true by rfl. -/

namespace Sys2Proof.Machine

variable (s : State)

@[simp] theorem setEscape_capacity : (setEscape s).capacity = s.capacity := rfl
@[simp] theorem setEscape_escapePending : (setEscape s).escapePending = true := rfl
@[simp] theorem setEscape_writeOffset : (setEscape s).writeOffset = s.writeOffset := rfl
@[simp] theorem setEscape_runningCrc : (setEscape s).runningCrc = s.runningCrc := rfl
@[simp] theorem setEscape_buffer : (setEscape s).buffer = s.buffer := rfl
@[simp] theorem setEscape_capOutput : (setEscape s).capOutput = s.capOutput := rfl
@[simp] theorem setEscape_capFlush : (setEscape s).capFlush = s.capFlush := rfl
@[simp] theorem setEscape_capDeliver : (setEscape s).capDeliver = s.capDeliver := rfl
@[simp] theorem setEscape_userCtx : (setEscape s).userCtx = s.userCtx := rfl
@[simp] theorem setEscape_txCrc : (setEscape s).txCrc = s.txCrc := rfl
@[simp] theorem setEscape_txIndex : (setEscape s).txIndex = s.txIndex := rfl
@[simp] theorem setEscape_trace : (setEscape s).trace = s.trace := rfl
@[simp] theorem setEscape_returned : (setEscape s).returned = s.returned := rfl
@[simp] theorem setEscape_inputs : (setEscape s).inputs = s.inputs := rfl
@[simp] theorem setEscape_deliverPlan : (setEscape s).deliverPlan = s.deliverPlan := rfl
@[simp] theorem setEscape_usable : (setEscape s).usable = s.usable := rfl
@[simp] theorem setEscape_initCount : (setEscape s).initCount = s.initCount := rfl

@[simp] theorem clearEscape_capacity : (clearEscape s).capacity = s.capacity := rfl
@[simp] theorem clearEscape_escapePending : (clearEscape s).escapePending = false := rfl
@[simp] theorem clearEscape_writeOffset : (clearEscape s).writeOffset = s.writeOffset := rfl
@[simp] theorem clearEscape_runningCrc : (clearEscape s).runningCrc = s.runningCrc := rfl
@[simp] theorem clearEscape_buffer : (clearEscape s).buffer = s.buffer := rfl
@[simp] theorem clearEscape_capOutput : (clearEscape s).capOutput = s.capOutput := rfl
@[simp] theorem clearEscape_capFlush : (clearEscape s).capFlush = s.capFlush := rfl
@[simp] theorem clearEscape_capDeliver : (clearEscape s).capDeliver = s.capDeliver := rfl
@[simp] theorem clearEscape_userCtx : (clearEscape s).userCtx = s.userCtx := rfl
@[simp] theorem clearEscape_txCrc : (clearEscape s).txCrc = s.txCrc := rfl
@[simp] theorem clearEscape_txIndex : (clearEscape s).txIndex = s.txIndex := rfl
@[simp] theorem clearEscape_trace : (clearEscape s).trace = s.trace := rfl
@[simp] theorem clearEscape_returned : (clearEscape s).returned = s.returned := rfl
@[simp] theorem clearEscape_inputs : (clearEscape s).inputs = s.inputs := rfl
@[simp] theorem clearEscape_deliverPlan : (clearEscape s).deliverPlan = s.deliverPlan := rfl
@[simp] theorem clearEscape_usable : (clearEscape s).usable = s.usable := rfl
@[simp] theorem clearEscape_initCount : (clearEscape s).initCount = s.initCount := rfl

@[simp] theorem discardAndReset_capacity : (discardAndReset s).capacity = s.capacity := rfl
@[simp] theorem discardAndReset_escapePending : (discardAndReset s).escapePending = s.escapePending := rfl
@[simp] theorem discardAndReset_writeOffset : (discardAndReset s).writeOffset = 0 := rfl
@[simp] theorem discardAndReset_runningCrc : (discardAndReset s).runningCrc = Config.CRC_INIT := rfl
@[simp] theorem discardAndReset_buffer : (discardAndReset s).buffer = s.buffer := rfl
@[simp] theorem discardAndReset_capOutput : (discardAndReset s).capOutput = s.capOutput := rfl
@[simp] theorem discardAndReset_capFlush : (discardAndReset s).capFlush = s.capFlush := rfl
@[simp] theorem discardAndReset_capDeliver : (discardAndReset s).capDeliver = s.capDeliver := rfl
@[simp] theorem discardAndReset_userCtx : (discardAndReset s).userCtx = s.userCtx := rfl
@[simp] theorem discardAndReset_txCrc : (discardAndReset s).txCrc = s.txCrc := rfl
@[simp] theorem discardAndReset_txIndex : (discardAndReset s).txIndex = s.txIndex := rfl
@[simp] theorem discardAndReset_trace : (discardAndReset s).trace = s.trace := rfl
@[simp] theorem discardAndReset_returned : (discardAndReset s).returned = s.returned := rfl
@[simp] theorem discardAndReset_inputs : (discardAndReset s).inputs = s.inputs := rfl
@[simp] theorem discardAndReset_deliverPlan : (discardAndReset s).deliverPlan = s.deliverPlan := rfl
@[simp] theorem discardAndReset_usable : (discardAndReset s).usable = s.usable := rfl
@[simp] theorem discardAndReset_initCount : (discardAndReset s).initCount = s.initCount := rfl

@[simp] theorem advanceOffset_capacity : (advanceOffset s).capacity = s.capacity := rfl
@[simp] theorem advanceOffset_escapePending : (advanceOffset s).escapePending = s.escapePending := rfl
@[simp] theorem advanceOffset_writeOffset : (advanceOffset s).writeOffset = s.writeOffset + 1 := rfl
@[simp] theorem advanceOffset_runningCrc : (advanceOffset s).runningCrc = s.runningCrc := rfl
@[simp] theorem advanceOffset_buffer : (advanceOffset s).buffer = s.buffer := rfl
@[simp] theorem advanceOffset_capOutput : (advanceOffset s).capOutput = s.capOutput := rfl
@[simp] theorem advanceOffset_capFlush : (advanceOffset s).capFlush = s.capFlush := rfl
@[simp] theorem advanceOffset_capDeliver : (advanceOffset s).capDeliver = s.capDeliver := rfl
@[simp] theorem advanceOffset_userCtx : (advanceOffset s).userCtx = s.userCtx := rfl
@[simp] theorem advanceOffset_txCrc : (advanceOffset s).txCrc = s.txCrc := rfl
@[simp] theorem advanceOffset_txIndex : (advanceOffset s).txIndex = s.txIndex := rfl
@[simp] theorem advanceOffset_trace : (advanceOffset s).trace = s.trace := rfl
@[simp] theorem advanceOffset_returned : (advanceOffset s).returned = s.returned := rfl
@[simp] theorem advanceOffset_inputs : (advanceOffset s).inputs = s.inputs := rfl
@[simp] theorem advanceOffset_deliverPlan : (advanceOffset s).deliverPlan = s.deliverPlan := rfl
@[simp] theorem advanceOffset_usable : (advanceOffset s).usable = s.usable := rfl
@[simp] theorem advanceOffset_initCount : (advanceOffset s).initCount = s.initCount := rfl

@[simp] theorem storeOctet_capacity (v : Byte) : (storeOctet v s).capacity = s.capacity := rfl
@[simp] theorem storeOctet_escapePending (v : Byte) : (storeOctet v s).escapePending = s.escapePending := rfl
@[simp] theorem storeOctet_writeOffset (v : Byte) : (storeOctet v s).writeOffset = s.writeOffset := rfl
@[simp] theorem storeOctet_runningCrc (v : Byte) : (storeOctet v s).runningCrc = s.runningCrc := rfl
@[simp] theorem storeOctet_buffer (v : Byte) : (storeOctet v s).buffer = Memory.write s.buffer s.writeOffset v := rfl
@[simp] theorem storeOctet_capOutput (v : Byte) : (storeOctet v s).capOutput = s.capOutput := rfl
@[simp] theorem storeOctet_capFlush (v : Byte) : (storeOctet v s).capFlush = s.capFlush := rfl
@[simp] theorem storeOctet_capDeliver (v : Byte) : (storeOctet v s).capDeliver = s.capDeliver := rfl
@[simp] theorem storeOctet_userCtx (v : Byte) : (storeOctet v s).userCtx = s.userCtx := rfl
@[simp] theorem storeOctet_txCrc (v : Byte) : (storeOctet v s).txCrc = s.txCrc := rfl
@[simp] theorem storeOctet_txIndex (v : Byte) : (storeOctet v s).txIndex = s.txIndex := rfl
@[simp] theorem storeOctet_trace (v : Byte) : (storeOctet v s).trace = s.trace := rfl
@[simp] theorem storeOctet_returned (v : Byte) : (storeOctet v s).returned = s.returned := rfl
@[simp] theorem storeOctet_inputs (v : Byte) : (storeOctet v s).inputs = s.inputs := rfl
@[simp] theorem storeOctet_deliverPlan (v : Byte) : (storeOctet v s).deliverPlan = s.deliverPlan := rfl
@[simp] theorem storeOctet_usable (v : Byte) : (storeOctet v s).usable = s.usable := rfl
@[simp] theorem storeOctet_initCount (v : Byte) : (storeOctet v s).initCount = s.initCount := rfl

@[simp] theorem record_capacity (e : Event) : (record e s).capacity = s.capacity := rfl
@[simp] theorem record_escapePending (e : Event) : (record e s).escapePending = s.escapePending := rfl
@[simp] theorem record_writeOffset (e : Event) : (record e s).writeOffset = s.writeOffset := rfl
@[simp] theorem record_runningCrc (e : Event) : (record e s).runningCrc = s.runningCrc := rfl
@[simp] theorem record_buffer (e : Event) : (record e s).buffer = s.buffer := rfl
@[simp] theorem record_capOutput (e : Event) : (record e s).capOutput = s.capOutput := rfl
@[simp] theorem record_capFlush (e : Event) : (record e s).capFlush = s.capFlush := rfl
@[simp] theorem record_capDeliver (e : Event) : (record e s).capDeliver = s.capDeliver := rfl
@[simp] theorem record_userCtx (e : Event) : (record e s).userCtx = s.userCtx := rfl
@[simp] theorem record_txCrc (e : Event) : (record e s).txCrc = s.txCrc := rfl
@[simp] theorem record_txIndex (e : Event) : (record e s).txIndex = s.txIndex := rfl
@[simp] theorem record_trace (e : Event) : (record e s).trace = s.trace ++ [e] := rfl
@[simp] theorem record_returned (e : Event) : (record e s).returned = s.returned := rfl
@[simp] theorem record_inputs (e : Event) : (record e s).inputs = s.inputs := rfl
@[simp] theorem record_deliverPlan (e : Event) : (record e s).deliverPlan = s.deliverPlan := rfl
@[simp] theorem record_usable (e : Event) : (record e s).usable = s.usable := rfl
@[simp] theorem record_initCount (e : Event) : (record e s).initCount = s.initCount := rfl

@[simp] theorem clearReturned_capacity : (clearReturned s).capacity = s.capacity := rfl
@[simp] theorem clearReturned_escapePending : (clearReturned s).escapePending = s.escapePending := rfl
@[simp] theorem clearReturned_writeOffset : (clearReturned s).writeOffset = s.writeOffset := rfl
@[simp] theorem clearReturned_runningCrc : (clearReturned s).runningCrc = s.runningCrc := rfl
@[simp] theorem clearReturned_buffer : (clearReturned s).buffer = s.buffer := rfl
@[simp] theorem clearReturned_capOutput : (clearReturned s).capOutput = s.capOutput := rfl
@[simp] theorem clearReturned_capFlush : (clearReturned s).capFlush = s.capFlush := rfl
@[simp] theorem clearReturned_capDeliver : (clearReturned s).capDeliver = s.capDeliver := rfl
@[simp] theorem clearReturned_userCtx : (clearReturned s).userCtx = s.userCtx := rfl
@[simp] theorem clearReturned_txCrc : (clearReturned s).txCrc = s.txCrc := rfl
@[simp] theorem clearReturned_txIndex : (clearReturned s).txIndex = s.txIndex := rfl
@[simp] theorem clearReturned_trace : (clearReturned s).trace = s.trace := rfl
@[simp] theorem clearReturned_returned : (clearReturned s).returned = none := rfl
@[simp] theorem clearReturned_inputs : (clearReturned s).inputs = s.inputs := rfl
@[simp] theorem clearReturned_deliverPlan : (clearReturned s).deliverPlan = s.deliverPlan := rfl
@[simp] theorem clearReturned_usable : (clearReturned s).usable = s.usable := rfl
@[simp] theorem clearReturned_initCount : (clearReturned s).initCount = s.initCount := rfl

@[simp] theorem takeInput_capacity (rest : List Input) : (takeInput rest s).capacity = s.capacity := rfl
@[simp] theorem takeInput_escapePending (rest : List Input) : (takeInput rest s).escapePending = s.escapePending := rfl
@[simp] theorem takeInput_writeOffset (rest : List Input) : (takeInput rest s).writeOffset = s.writeOffset := rfl
@[simp] theorem takeInput_runningCrc (rest : List Input) : (takeInput rest s).runningCrc = s.runningCrc := rfl
@[simp] theorem takeInput_buffer (rest : List Input) : (takeInput rest s).buffer = s.buffer := rfl
@[simp] theorem takeInput_capOutput (rest : List Input) : (takeInput rest s).capOutput = s.capOutput := rfl
@[simp] theorem takeInput_capFlush (rest : List Input) : (takeInput rest s).capFlush = s.capFlush := rfl
@[simp] theorem takeInput_capDeliver (rest : List Input) : (takeInput rest s).capDeliver = s.capDeliver := rfl
@[simp] theorem takeInput_userCtx (rest : List Input) : (takeInput rest s).userCtx = s.userCtx := rfl
@[simp] theorem takeInput_txCrc (rest : List Input) : (takeInput rest s).txCrc = s.txCrc := rfl
@[simp] theorem takeInput_txIndex (rest : List Input) : (takeInput rest s).txIndex = s.txIndex := rfl
@[simp] theorem takeInput_trace (rest : List Input) : (takeInput rest s).trace = s.trace := rfl
@[simp] theorem takeInput_returned (rest : List Input) : (takeInput rest s).returned = s.returned := rfl
@[simp] theorem takeInput_inputs (rest : List Input) : (takeInput rest s).inputs = rest := rfl
@[simp] theorem takeInput_deliverPlan (rest : List Input) : (takeInput rest s).deliverPlan = s.deliverPlan := rfl
@[simp] theorem takeInput_usable (rest : List Input) : (takeInput rest s).usable = s.usable := rfl
@[simp] theorem takeInput_initCount (rest : List Input) : (takeInput rest s).initCount = s.initCount := rfl

end Sys2Proof.Machine
end

