-- ==== Sys2Proof/Laws/Memory.lean ====
section
/-! SUPPORT. The reassembly buffer: a read after a write at the same index gives the value written, a write leaves every
other index alone, and every memory operation keeps the canonical form. -/

namespace Sys2Proof.Machine

theorem read_write_same (m : Memory) (i : Nat) (v : Byte) :
    Memory.read? (Memory.write m i v) i = some v := by
  induction m with
  | nil => simp [Memory.write, Memory.read?]
  | cons c m ih =>
    unfold Memory.write
    split
    · simp [Memory.read?]
    · split
      · simp [Memory.read?]
      · simp [Memory.read?, ih, Ne.symm ‹_›]

theorem read_write_other (m : Memory) (i j : Nat) (v : Byte) (h : j ≠ i) :
    Memory.read? (Memory.write m i v) j = Memory.read? m j := by
  induction m with
  | nil => simp [Memory.write, Memory.read?, Ne.symm h]
  | cons c m ih =>
    unfold Memory.write
    split
    · simp [Memory.read?, Ne.symm h]
    · split
      · rename_i hc
        simp [Memory.read?, Ne.symm h, ← hc]
      · simp [Memory.read?, ih]

theorem mem_write (m : Memory) (i : Nat) (v : Byte) (c : Host.Cell) (h : c ∈ Memory.write m i v) :
    c = (i, v) ∨ c ∈ m := by
  induction m with
  | nil => simpa [Memory.write] using h
  | cons d m ih =>
    unfold Memory.write at h
    split at h
    · simpa using h
    · split at h
      · rcases List.mem_cons.mp h with h | h
        · exact .inl h
        · exact .inr (List.mem_cons_of_mem _ h)
      · rcases List.mem_cons.mp h with h | h
        · exact .inr (by simp [h])
        · exact (ih h).imp_right (List.mem_cons_of_mem _)

/-- A write keeps the canonical form. -/
theorem write_keeps_wf (m : Memory) (i : Nat) (v : Byte) (h : Memory.wf m) :
    Memory.wf (Memory.write m i v) := by
  induction m with
  | nil => simp [Memory.write]
  | cons d m ih =>
    have ⟨hd, hm⟩ := List.pairwise_cons.mp h
    unfold Memory.write
    split
    · rename_i hlt
      refine List.pairwise_cons.mpr ⟨?_, h⟩
      intro c hc
      rcases List.mem_cons.mp hc with rfl | hc
      · exact hlt
      · exact Nat.lt_trans hlt (hd c hc)
    · split
      · rename_i heq
        exact List.pairwise_cons.mpr ⟨fun c hc => heq ▸ hd c hc, hm⟩
      · rename_i hlt hne
        refine List.pairwise_cons.mpr ⟨?_, ih hm⟩
        intro c hc
        rcases mem_write m i v c hc with rfl | hc
        · exact Nat.lt_of_le_of_ne (Nat.le_of_not_lt hlt) (Ne.symm hne)
        · exact hd c hc

theorem reset_memory_wf : Memory.wf State.reset.buffer := by decide

@[simp] theorem memRead_storeOctet_same (v : Byte) (s : State) :
    memRead (storeOctet v s) s.writeOffset = v := by
  simp [memRead, read_write_same]

theorem memRead_storeOctet_other (v : Byte) (s : State) (a : Nat) (h : a ≠ s.writeOffset) :
    memRead (storeOctet v s) a = memRead s a := by
  simp [memRead, read_write_other _ _ _ _ h]

/-- What is read depends on the buffer and the draw behind it only. -/
theorem memRead_congr (s t : State) (a : Nat) (hb : t.buffer = s.buffer) (hc : t.initCount = s.initCount) :
    memRead t a = memRead s a := by
  simp [memRead, hb, hc]

theorem memRead_of_isSome (s : State) (a : Nat) (h : (Memory.read? s.buffer a).isSome) :
    Memory.read? s.buffer a = some (memRead s a) := by
  obtain ⟨v, hv⟩ := Option.isSome_iff_exists.mp h
  simp [memRead, hv]

end Sys2Proof.Machine
end

