-- ==== Sys2Proof/Laws/Encoder.lean ====
section
/-! SUPPORT. What each shared operation of the encoder does: every one of them appends its events to the trace and, but for
the local accumulator and index, changes nothing else. -/

namespace Sys2Proof.Machine

@[simp] theorem esc_ne_flag : Config.ESC ≠ Config.FLAG := by decide
@[simp] theorem flag_ne_esc : Config.FLAG ≠ Config.ESC := by decide

theorem emitEvents_append (s : State) (xs ys : List Byte) :
    emitEvents s (xs ++ ys) = emitEvents s xs ++ emitEvents s ys := by
  unfold emitEvents
  split <;> simp

/-- Which events octets raise depends on the output capability and the context only. -/
theorem emitEvents_congr (s t : State) (ho : t.capOutput = s.capOutput) (hc : t.userCtx = s.userCtx)
    (xs : List Byte) : emitEvents t xs = emitEvents s xs := by
  simp [emitEvents, ho, hc]

theorem emitOctet_eq (b : Byte) (s : State) :
    emitOctet b s = { s with trace := s.trace ++ emitEvents s [b] } := by
  unfold emitOctet emitEvents
  split <;> simp [record]

theorem emitFlush_eq (s : State) :
    emitFlush s = { s with trace := s.trace ++ flushEvents s } := by
  unfold emitFlush flushEvents
  split <;> simp [record]

/-- `TX_PUT` emits the octets its operand is written as on the wire. -/
theorem putOctet_eq (b : Byte) (s : State) :
    putOctet b s = { s with trace := s.trace ++ emitEvents s (escOctet b) } := by
  unfold putOctet escOctet
  split
  · simp only [emitOctet_eq]
    rw [show [Config.ESC, invertBit5 b] = [Config.ESC] ++ [invertBit5 b] from rfl, emitEvents_append,
      List.append_assoc]
    rfl
  · exact emitOctet_eq b s

theorem payloadIteration_eq (b : Byte) (s : State) :
    payloadIteration b s = { s with
      txCrc := crcStep s.txCrc b
      txIndex := s.txIndex + 1
      trace := s.trace ++ emitEvents s (escOctet b) } := by
  simp only [payloadIteration, putOctet_eq]
  rfl

/-- The payload loop, started at index `i` with enough iterations, folds and emits the rest of the message. -/
theorem payloadLoop_eq (n : Nat) (msg : List Byte) (s : State) (h : msg.length ≤ s.txIndex + n)
    (hi : s.txIndex ≤ msg.length) :
    payloadLoop n msg s = { s with
      txCrc := crcFold s.txCrc (msg.drop s.txIndex)
      txIndex := msg.length
      trace := s.trace ++ emitEvents s (escOctets (msg.drop s.txIndex)) } := by
  induction n generalizing s with
  | zero =>
    have he : s.txIndex = msg.length := by omega
    rw [payloadLoop, he, List.drop_length]
    cases s
    simp_all [crcFold, escOctets, emitEvents]
  | succ n ih =>
    rw [payloadLoop]
    by_cases hlt : s.txIndex < msg.length
    · rw [List.getElem?_eq_getElem hlt, List.drop_eq_getElem_cons hlt]
      simp only [payloadIteration_eq]
      rw [ih _ (by simp; omega) (by simpa using hlt)]
      simp [crcFold, escOctets, emitEvents_append]
      rfl
    · have he : s.txIndex = msg.length := by omega
      rw [he, List.getElem?_eq_none (Nat.le_refl _), List.drop_length]
      cases s
      simp_all [crcFold, escOctets, emitEvents]

/-- `TX_PAYLOAD` folds the message from the seed and emits it under the escaping rule. -/
theorem sendPayload_eq (msg : List Byte) (s : State) :
    sendPayload msg s = { s with
      txCrc := crcFold Config.CRC_INIT msg
      txIndex := msg.length
      trace := s.trace ++ emitEvents s (escOctets msg) } := by
  unfold sendPayload
  rw [payloadLoop_eq _ _ _ (by simp) (by simp)]
  simp [emitEvents]

theorem sendCrc_eq (s : State) :
    sendCrc s = { s with
      trace := s.trace ++ emitEvents s (escOctet (lo8 s.txCrc) ++ escOctet (hi8 s.txCrc)) } := by
  simp only [sendCrc, putOctet_eq, emitEvents_append, List.append_assoc]
  rfl

/-- `SEND` appends the events of its message and changes nothing else. -/
theorem sendMessage_eq (msg : List Byte) (s : State) :
    sendMessage msg s = { s with trace := s.trace ++ sendEvents s msg } := by
  simp only [sendMessage, emitOctet_eq, sendPayload_eq, sendCrc_eq, emitFlush_eq, sendEvents, wireFrame,
    emitEvents_append, List.append_assoc]
  rfl

end Sys2Proof.Machine
end

