-- ==== Sys2Proof/Laws/Decoder.lean ====
section
/-! SUPPORT. What each shared operation of the decoder can do, said once: if it answers next, then one of the listed cases
holds. -/

namespace Sys2Proof.Machine

@[simp] theorem andThen_next (s : State) (k : State → Answer) : andThen (.next s) k = k s := rfl
@[simp] theorem andThen_fault (f : Fault) (k : State → Answer) : andThen (.fault f) k = .fault f := rfl
@[simp] theorem andThen_refused (r : Refusal) (k : State → Answer) : andThen (.refused r) k = .refused r := rfl

/-- A sequence answers next exactly when both parts do. -/
theorem andThen_eq_next (o : Answer) (k : State → Answer) (t : State) :
    andThen o k = .next t ↔ ∃ u, o = .next u ∧ k u = .next t := by
  cases o <;> simp

theorem andThen_assoc (o : Answer) (k l : State → Answer) :
    andThen (andThen o k) l = andThen o fun s => andThen (k s) l := by
  cases o <;> rfl

/-- What a stored octet leaves: the fold with a lag of two, the next offset, or the reset at `capacity`. -/
def afterStore (v : Byte) (s : State) : State :=
  if s.writeOffset + 1 = s.capacity then
    { storeOctet v s with writeOffset := 0, runningCrc := Config.CRC_INIT }
  else
    { storeOctet v s with
      writeOffset := s.writeOffset + 1
      runningCrc := if 2 ≤ s.writeOffset
        then crcStep s.runningCrc (memRead s (s.writeOffset - 2)) else s.runningCrc }

theorem foldLagged_storeOctet (v : Byte) (s : State) :
    foldLagged (storeOctet v s) = { storeOctet v s with
      runningCrc := if 2 ≤ s.writeOffset
        then crcStep s.runningCrc (memRead s (s.writeOffset - 2)) else s.runningCrc } := by
  by_cases h : 2 ≤ s.writeOffset
  · have hr : memRead (storeOctet v s) (s.writeOffset - 2) = memRead s (s.writeOffset - 2) :=
      memRead_storeOctet_other v s _ (by omega)
    simp only [foldLagged, storeOctet_writeOffset, storeOctet_runningCrc, h, if_true, hr]
  · simp only [foldLagged, storeOctet_writeOffset, h, if_false]
    rfl

/-- Storing an octet inside the buffer completes. -/
theorem accumulate_eq (v : Byte) (s : State) (h : s.writeOffset < s.bufBytes) :
    accumulate v s = .next (afterStore v s) := by
  rw [accumulate, if_pos h, foldLagged_storeOctet]
  by_cases hc : s.writeOffset + 1 = s.capacity
  · simp only [oversizeCheck, advanceOffset, storeOctet_writeOffset, storeOctet_capacity, afterStore, hc, if_true]
    rfl
  · simp only [oversizeCheck, advanceOffset, storeOctet_writeOffset, storeOctet_capacity, afterStore, hc, if_false]

/-- Storing an octet answers next only inside the buffer. -/
theorem accumulate_cases (v : Byte) (s t : State) (h : accumulate v s = .next t) :
    s.writeOffset < s.bufBytes ∧ t = afterStore v s := by
  by_cases hb : s.writeOffset < s.bufBytes
  · rw [accumulate_eq v s hb] at h
    exact ⟨hb, by simpa using h.symm⟩
  · simp [accumulate, hb] at h

/-- A consumer that only sends returns, having appended the events of its `SEND`s. -/
theorem runConsumer_sends (msgs : List (List Byte)) (s : State) :
    runConsumer (msgs.map CapCall.send) s =
      .next { s with trace := s.trace ++ msgs.flatMap (sendEvents s) } := by
  induction msgs generalizing s with
  | nil => simp [runConsumer]
  | cons m msgs ih =>
    simp only [List.map_cons, runConsumer, ih, sendMessage_eq]
    simp only [List.flatMap_cons, List.append_assoc]
    rfl

/-- A consumer that returns made only `SEND`s. -/
theorem runConsumer_cases (calls : List CapCall) (s t : State) (h : runConsumer calls s = .next t) :
    ∃ msgs : List (List Byte), calls = msgs.map CapCall.send ∧
      t = { s with trace := s.trace ++ msgs.flatMap (sendEvents s) } := by
  induction calls generalizing s with
  | nil => exact ⟨[], rfl, by simpa [runConsumer] using h.symm⟩
  | cons c calls ih =>
    cases c with
    | send m =>
      obtain ⟨msgs, rfl, -⟩ := ih _ h
      refine ⟨m :: msgs, rfl, ?_⟩
      have := runConsumer_sends (m :: msgs) s
      rw [List.map_cons] at this
      rw [this] at h
      simpa using h.symm
    | feed octets => simp [runConsumer] at h
    | construct a => simp [runConsumer] at h

/-- A delivery that completes: the event and the events of the consumer's `SEND`s, or nothing without a capability. -/
theorem deliver_cases (p : List Byte) (s t : State) (h : deliver p s = .next t) :
    (s.capDeliver = false ∧ t = s) ∨
    (s.capDeliver = true ∧ ∃ msgs : List (List Byte), s.deliverPlan.headD [] = msgs.map CapCall.send ∧
      t = { s with
        trace := s.trace ++ Event.deliver s.userCtx p :: msgs.flatMap (sendEvents s)
        deliverPlan := s.deliverPlan.tail }) := by
  unfold deliver at h
  split at h
  · rename_i hc
    obtain ⟨msgs, hm, rfl⟩ := runConsumer_cases _ _ _ h
    refine .inr ⟨hc, msgs, hm, ?_⟩
    simp only [record, List.append_assoc, List.singleton_append]
    rfl
  · rename_i hc
    exact .inl ⟨by simpa using hc, by simpa using h.symm⟩

/-- A delivery whose consumer only sends completes. -/
theorem deliver_sends (p : List Byte) (s : State) (msgs : List (List Byte)) (hc : s.capDeliver = true)
    (hm : s.deliverPlan.headD [] = msgs.map CapCall.send) :
    deliver p s = .next { s with
      trace := s.trace ++ Event.deliver s.userCtx p :: msgs.flatMap (sendEvents s)
      deliverPlan := s.deliverPlan.tail } := by
  unfold deliver
  rw [if_pos hc, hm, runConsumer_sends]
  simp only [record, List.append_assoc, List.singleton_append]
  rfl

/-- The head of a plan of `SEND`s is `SEND`s. -/
theorem ConsumerSendsOnly_head (s : State) (h : s.ConsumerSendsOnly) :
    ∃ msgs : List (List Byte), s.deliverPlan.headD [] = msgs.map CapCall.send := by
  have key : ∀ calls : List CapCall, (∀ c ∈ calls, ∃ msg, c = .send msg) →
      ∃ msgs : List (List Byte), calls = msgs.map CapCall.send := by
    intro calls
    induction calls with
    | nil => exact fun _ => ⟨[], rfl⟩
    | cons c calls ih =>
      intro hc
      obtain ⟨m, rfl⟩ := hc c (by simp)
      obtain ⟨ms, rfl⟩ := ih fun d hd => hc d (by simp [hd])
      exact ⟨m :: ms, rfl⟩
  cases hp : s.deliverPlan with
  | nil => exact ⟨[], rfl⟩
  | cons calls rest => exact key calls (h calls (by simp [hp]))

/-- A boundary octet that is not aborted, when it completes: a delivery and the reset, or the reset alone. -/
theorem closeFrame_cases (s t : State) (h : closeFrame s = .next t) :
    (s.HoldsValidFrame ∧ s.writeOffset ≤ s.bufBytes ∧
      ∃ u, deliver (payloadSpan s) s = .next u ∧ t = discardAndReset u) ∨
    (¬ s.HoldsValidFrame ∧ t = discardAndReset s) := by
  unfold closeFrame at h
  unfold State.HoldsValidFrame
  split at h
  · rename_i h2
    split at h
    · rename_i hb
      split at h
      · rename_i hv
        obtain ⟨u, hu, ht⟩ := (andThen_eq_next _ _ _).mp h
        exact .inl ⟨⟨h2, hv⟩, hb, u, hu, by simpa using ht.symm⟩
      · rename_i hv
        exact .inr ⟨fun hh => hv hh.2, by simpa using h.symm⟩
    · cases h
  · rename_i h2
    exact .inr ⟨fun hh => h2 hh.1, by simpa using h.symm⟩

/-- One received octet, when it completes: the five classes of the map. -/
theorem receiveOctet_cases (b : Byte) (s t : State) (h : receiveOctet b s = .next t) :
    (b = Config.FLAG ∧ s.escapePending = true ∧ t = abortFrame s) ∨
    (b = Config.FLAG ∧ s.escapePending = false ∧ closeFrame s = .next t) ∨
    (b = Config.ESC ∧ s.escapePending = false ∧ t = setEscape s) ∨
    (b ≠ Config.FLAG ∧ b ≠ Config.ESC ∧ s.escapePending = false ∧ s.writeOffset < s.bufBytes ∧
      t = afterStore b s) ∨
    (b ≠ Config.FLAG ∧ s.escapePending = true ∧ s.writeOffset < s.bufBytes ∧
      t = afterStore (invertBit5 b) (clearEscape s)) := by
  unfold receiveOctet at h
  split at h
  · rename_i hb
    split at h
    · rename_i he
      exact .inl ⟨hb, he, by simpa using h.symm⟩
    · rename_i he
      exact .inr (.inl ⟨hb, by simpa using he, h⟩)
  · rename_i hf
    split at h
    · rename_i hb
      exact .inr (.inr (.inl ⟨hb.1, hb.2, by simpa using h.symm⟩))
    · rename_i hb
      split at h
      · rename_i he
        obtain ⟨hw, rfl⟩ := accumulate_cases _ _ _ h
        exact .inr (.inr (.inr (.inr ⟨hf, he, by simpa [State.bufBytes] using hw, rfl⟩)))
      · rename_i he
        have he : s.escapePending = false := by simpa using he
        obtain ⟨hw, rfl⟩ := accumulate_cases _ _ _ h
        exact .inr (.inr (.inr (.inl ⟨hf, fun hh => hb ⟨hh, he⟩, he, hw, rfl⟩)))

/-- Octets one after another, when they complete: the first, then the rest. -/
theorem receiveOctets_cons_next (b : Byte) (rest : List Byte) (s t : State) :
    receiveOctets (b :: rest) s = .next t ↔
      ∃ u, receiveOctet b s = .next u ∧ receiveOctets rest u = .next t :=
  andThen_eq_next _ _ _

theorem receiveOctets_append (xs ys : List Byte) (s : State) :
    receiveOctets (xs ++ ys) s = andThen (receiveOctets xs s) (receiveOctets ys) := by
  induction xs generalizing s with
  | nil => rfl
  | cons b xs ih =>
    simp only [List.cons_append, receiveOctets, andThen_assoc]
    exact congrArg _ (funext ih)

/-- An operation of the session answers next only on a usable session. -/
theorem inSession_cases (k : State → Answer) (s t : State) (h : inSession k s = .next t) :
    s.usable = true ∧ k (clearReturned s) = .next t := by
  unfold inSession at h
  split at h
  · exact ⟨‹_›, h⟩
  · cases h

theorem inSession_of_usable (k : State → Answer) (s : State) (h : s.usable = true) :
    inSession k s = k (clearReturned s) := by
  simp [inSession, h]

/-- A received-octet class answers next only where its octet classifies to it. -/
theorem inRxClass_cases (i : Instr) (b : Byte) (k : State → Answer) (s t : State)
    (h : inRxClass i b k s = .next t) : rxClass s.escapePending b = i ∧ k s = .next t := by
  unfold inRxClass at h
  split at h
  · exact ⟨‹_›, h⟩
  · cases h

/-- A transmitted-octet class answers next only where its octet classifies to it. -/
theorem inTxClass_cases (i : Instr) (b : Byte) (k : State → Answer) (s t : State)
    (h : inTxClass i b k s = .next t) : txClass b = i ∧ k s = .next t := by
  unfold inTxClass at h
  split at h
  · exact ⟨‹_›, h⟩
  · cases h

theorem inRxClass_of_class (i : Instr) (b : Byte) (k : State → Answer) (s : State)
    (h : rxClass s.escapePending b = i) : inRxClass i b k s = k s := if_pos h

theorem inRxClass_of_other (i : Instr) (b : Byte) (k : State → Answer) (s : State)
    (h : rxClass s.escapePending b ≠ i) : inRxClass i b k s = .refused .notThisClass := if_neg h

theorem inTxClass_of_class (i : Instr) (b : Byte) (k : State → Answer) (s : State)
    (h : txClass b = i) : inTxClass i b k s = k s := if_pos h

theorem inTxClass_of_other (i : Instr) (b : Byte) (k : State → Answer) (s : State)
    (h : txClass b ≠ i) : inTxClass i b k s = .refused .notThisClass := if_neg h

end Sys2Proof.Machine
end

