-- ==== Sys2Proof/Laws/Moves.lean ====
section
/-! SUPPORT. Said once for the whole machine: every instruction but `INIT` that answers next is a sequence of a few elementary
moves, so a property each move keeps is a property every such instruction keeps. -/

namespace Sys2Proof.Machine

/-- The elementary changes an instruction other than `INIT` is made of. -/
inductive Move : State → State → Prop where
  | returns (s : State) (r : Option Returned) : Move s { s with returned := r }
  | raises (s : State) (es : List Event) : Move s { s with trace := s.trace ++ es }
  | encodes (s : State) (c : Word) (i : Nat) : Move s { s with txCrc := c, txIndex := i }
  | flags (s : State) (e : Bool) : Move s { s with escapePending := e }
  | stores (s : State) (v : Byte) (h : s.writeOffset < s.bufBytes) : Move s (afterStore v s)
  | discards (s : State) : Move s (discardAndReset s)
  | consumes (s : State) : Move s { s with deliverPlan := s.deliverPlan.tail }

/-- Several moves, one after another. -/
inductive Moves : State → State → Prop where
  | none (s : State) : Moves s s
  | more {s t u : State} (h : Moves s t) (m : Move t u) : Moves s u

theorem Moves_one {s t : State} (m : Move s t) : Moves s t := .more (.none s) m

theorem Moves_trans {s t u : State} (h : Moves s t) (k : Moves t u) : Moves s u := by
  induction k with
  | none => exact h
  | more _ m ih => exact .more ih m

/-- A property that every move keeps is kept by several. -/
theorem Moves_keep {P : State → Prop} (hP : ∀ s t, Move s t → P s → P t) {s t : State}
    (h : Moves s t) (hs : P s) : P t := by
  induction h with
  | none => exact hs
  | more _ m ih => exact hP _ _ m ih

theorem deliver_moves (p : List Byte) (s t : State) (h : deliver p s = .next t) : Moves s t := by
  rcases deliver_cases p s t h with ⟨-, rfl⟩ | ⟨-, msgs, -, rfl⟩
  · exact .none _
  · exact .more (Moves_one (.raises s _)) (.consumes _)

theorem closeFrame_moves (s t : State) (h : closeFrame s = .next t) : Moves s t := by
  rcases closeFrame_cases s t h with ⟨-, -, u, hu, rfl⟩ | ⟨-, rfl⟩
  · exact .more (deliver_moves _ _ _ hu) (.discards u)
  · exact Moves_one (.discards s)

theorem abortFrame_moves (s : State) : Moves s (abortFrame s) :=
  .more (Moves_one (.flags s false)) (.discards _)

theorem accumulate_moves (v : Byte) (s t : State) (h : accumulate v s = .next t) : Moves s t := by
  obtain ⟨hw, rfl⟩ := accumulate_cases v s t h
  exact Moves_one (.stores s v hw)

theorem receiveOctet_moves (b : Byte) (s t : State) (h : receiveOctet b s = .next t) : Moves s t := by
  rcases receiveOctet_cases b s t h with ⟨-, -, rfl⟩ | ⟨-, -, hc⟩ | ⟨-, -, rfl⟩ | ⟨-, -, -, hw, rfl⟩ |
    ⟨-, -, hw, rfl⟩
  · exact abortFrame_moves s
  · exact closeFrame_moves s t hc
  · exact Moves_one (.flags s true)
  · exact Moves_one (.stores s b hw)
  · exact .more (Moves_one (.flags s false)) (.stores _ _ hw)

theorem receiveOctets_moves (octets : List Byte) (s t : State) (h : receiveOctets octets s = .next t) :
    Moves s t := by
  induction octets generalizing s with
  | nil =>
    rw [receiveOctets] at h
    cases h
    exact .none _
  | cons b rest ih =>
    obtain ⟨u, hu, ht⟩ := (receiveOctets_cons_next b rest s t).mp h
    exact Moves_trans (receiveOctet_moves b s u hu) (ih u ht)

theorem emitOctet_moves (b : Byte) (s : State) : Moves s (emitOctet b s) := by
  rw [emitOctet_eq]
  exact Moves_one (.raises s _)

theorem inSession_moves (k : State → Answer) (s t : State)
    (hk : ∀ u v, k u = .next v → Moves u v) (h : inSession k s = .next t) : Moves s t := by
  obtain ⟨-, h⟩ := inSession_cases k s t h
  exact Moves_trans (Moves_one (.returns s none)) (hk _ _ h)

/-- A body that always answers next. -/
theorem next_moves (f : State → State) (hf : ∀ u, Moves u (f u)) (u v : State)
    (h : (Host.Outcome.next (f u) : Answer) = .next v) : Moves u v := by
  cases h
  exact hf u

/-- Every instruction but `INIT`, when it answers next, is a sequence of moves. -/
theorem exec_moves (i : Instr) (hi : ∀ a, i ≠ .init a) (s t : State) (h : exec i s = .next t) : Moves s t := by
  cases i with
  | init a => exact absurd rfl (hi a)
  | crcStep c b =>
    cases h
    exact Moves_one (.returns s _)
  | rxFlagAbort =>
    refine inSession_moves _ s t (fun u v huv => ?_) h
    exact next_moves _ abortFrame_moves u v (inRxClass_cases _ _ _ u v huv).2
  | rxFlagClose =>
    refine inSession_moves _ s t (fun u v huv => ?_) h
    exact closeFrame_moves u v (inRxClass_cases _ _ _ u v huv).2
  | rxEsc =>
    refine inSession_moves _ s t (fun u v huv => ?_) h
    exact next_moves _ (fun w => Moves_one (.flags w true)) u v (inRxClass_cases _ _ _ u v huv).2
  | rxData b =>
    refine inSession_moves _ s t (fun u v huv => ?_) h
    exact accumulate_moves b u v (inRxClass_cases _ _ _ u v huv).2
  | rxDataEscaped b =>
    refine inSession_moves _ s t (fun u v huv => ?_) h
    exact Moves_trans (Moves_one (.flags u false))
      (accumulate_moves _ _ v (inRxClass_cases _ _ _ u v huv).2)
  | txEscaped7E =>
    refine inSession_moves _ s t (fun u v huv => ?_) h
    exact next_moves _ (fun w => Moves_trans (emitOctet_moves _ w) (emitOctet_moves _ _)) u v
      (inTxClass_cases _ _ _ u v huv).2
  | txEscaped7D =>
    refine inSession_moves _ s t (fun u v huv => ?_) h
    exact next_moves _ (fun w => Moves_trans (emitOctet_moves _ w) (emitOctet_moves _ _)) u v
      (inTxClass_cases _ _ _ u v huv).2
  | txLiteral b =>
    refine inSession_moves _ s t (fun u v huv => ?_) h
    exact next_moves _ (emitOctet_moves b) u v (inTxClass_cases _ _ _ u v huv).2
  | send msg =>
    refine inSession_moves _ s t (next_moves _ fun w => ?_) h
    rw [sendMessage_eq]
    exact Moves_one (.raises w _)
  | rxByte b => exact inSession_moves _ s t (receiveOctet_moves b) h
  | rxBuf octets => exact inSession_moves _ s t (receiveOctets_moves octets) h
  | txFlag => exact inSession_moves _ s t (next_moves _ (emitOctet_moves _)) h
  | txPut b =>
    refine inSession_moves _ s t (next_moves _ fun w => ?_) h
    rw [putOctet_eq]
    exact Moves_one (.raises w _)
  | txPayload msg =>
    refine inSession_moves _ s t (next_moves _ fun w => ?_) h
    rw [sendPayload_eq]
    exact .more (Moves_one (.encodes w (crcFold Config.CRC_INIT msg) msg.length))
      (.raises { w with txCrc := crcFold Config.CRC_INIT msg, txIndex := msg.length } _)
  | txCrc =>
    refine inSession_moves _ s t (next_moves _ fun w => ?_) h
    rw [sendCrc_eq]
    exact Moves_one (.raises w _)
  | txFlush =>
    refine inSession_moves _ s t (next_moves _ fun w => ?_) h
    rw [emitFlush_eq]
    exact Moves_one (.raises w _)

end Sys2Proof.Machine
end

