-- ==== Sys2Proof/Laws/Trace.lean ====
section
/-! SUPPORT. The views of a trace: what is delivered and what is emitted, event by event. -/

namespace Sys2Proof.Machine

@[simp] theorem deliveries_append (xs ys : List Event) :
    deliveries (xs ++ ys) = deliveries xs ++ deliveries ys := by
  simp [deliveries]

@[simp] theorem emissions_append (xs ys : List Event) :
    emissions (xs ++ ys) = emissions xs ++ emissions ys := by
  simp [emissions]

theorem deliveries_deliver_cons (c : Ctx) (p : List Byte) (es : List Event) :
    deliveries (.deliver c p :: es) = p :: deliveries es := rfl

theorem emissions_deliver_cons (c : Ctx) (p : List Byte) (es : List Event) :
    emissions (.deliver c p :: es) = emissions es := rfl

theorem emissions_map_emit (c : Ctx) (bs : List Byte) : emissions (bs.map (Event.emit c)) = bs := by
  induction bs with
  | nil => rfl
  | cons b bs ih => exact congrArg (b :: ·) ih

theorem deliveries_map_emit (c : Ctx) (bs : List Byte) : deliveries (bs.map (Event.emit c)) = [] := by
  induction bs with
  | nil => rfl
  | cons b bs ih => exact ih

/-- The encoder's events deliver nothing. -/
theorem deliveries_emitEvents (s : State) (bs : List Byte) : deliveries (emitEvents s bs) = [] := by
  unfold emitEvents
  split
  · exact deliveries_map_emit _ _
  · rfl

theorem deliveries_flushEvents (s : State) : deliveries (flushEvents s) = [] := by
  unfold flushEvents
  split <;> rfl

theorem emissions_flushEvents (s : State) : emissions (flushEvents s) = [] := by
  unfold flushEvents
  split <;> rfl

theorem deliveries_sendEvents (s : State) (msg : List Byte) : deliveries (sendEvents s msg) = [] := by
  simp [sendEvents, deliveries_emitEvents, deliveries_flushEvents]

/-- What several `SEND`s raise delivers nothing. -/
theorem deliveries_sends (s : State) (msgs : List (List Byte)) :
    deliveries (msgs.flatMap (sendEvents s)) = [] := by
  induction msgs with
  | nil => rfl
  | cons m msgs ih => simp [List.flatMap_cons, deliveries_sendEvents, ih]

end Sys2Proof.Machine
end

