-- ==== Sys2Proof/Laws/PerInstr.lean ====
section
/-! SUPPORT. What is said of every instruction as syntax, one lemma per constructor. -/

/-- The bytes an instruction is encoded in are one transmitted octet or a received word of two bytes whose second byte is the
mode bit alone (30_encoding.md R47, R52). -/
def Sys2Proof.Laws.WordShape.Statement (i : Sys2Proof.Instr) : Prop :=
  ∀ bytes, Sys2Proof.encode i = some bytes →
    (∃ b, bytes = [b]) ∨ (∃ b e, bytes = Sys2Proof.rxWordBytes e b)

namespace Sys2Proof.Laws.WordShape

theorem rxFlagAbort : Statement .rxFlagAbort := by
  intro bytes h; exact .inr ⟨0x7E#8, true, by simpa [encode, rxWordBytes] using h.symm⟩

theorem rxFlagClose : Statement .rxFlagClose := by
  intro bytes h; exact .inr ⟨0x7E#8, false, by simpa [encode, rxWordBytes] using h.symm⟩

theorem rxEsc : Statement .rxEsc := by
  intro bytes h; exact .inr ⟨0x7D#8, false, by simpa [encode, rxWordBytes] using h.symm⟩

theorem rxData (b : Byte) : Statement (.rxData b) := by
  intro bytes h; exact .inr ⟨b, false, by simpa [encode, rxWordBytes] using h.symm⟩

theorem rxDataEscaped (b : Byte) : Statement (.rxDataEscaped b) := by
  intro bytes h; exact .inr ⟨b, true, by simpa [encode, rxWordBytes] using h.symm⟩

theorem txEscaped7E : Statement .txEscaped7E := by
  intro bytes h; exact .inl ⟨0x7E#8, by simpa [encode] using h.symm⟩

theorem txEscaped7D : Statement .txEscaped7D := by
  intro bytes h; exact .inl ⟨0x7D#8, by simpa [encode] using h.symm⟩

theorem txLiteral (b : Byte) : Statement (.txLiteral b) := by
  intro bytes h; exact .inl ⟨b, by simpa [encode] using h.symm⟩

theorem init (args : InitArgs) : Statement (.init args) := by intro bytes h; simp [encode] at h
theorem crcStep (crc : Word) (b : Byte) : Statement (.crcStep crc b) := by intro bytes h; simp [encode] at h
theorem send (msg : List Byte) : Statement (.send msg) := by intro bytes h; simp [encode] at h
theorem rxByte (b : Byte) : Statement (.rxByte b) := by intro bytes h; simp [encode] at h
theorem rxBuf (octets : List Byte) : Statement (.rxBuf octets) := by intro bytes h; simp [encode] at h
theorem txFlag : Statement .txFlag := by intro bytes h; simp [encode] at h
theorem txPut (b : Byte) : Statement (.txPut b) := by intro bytes h; simp [encode] at h
theorem txPayload (msg : List Byte) : Statement (.txPayload msg) := by intro bytes h; simp [encode] at h
theorem txCrc : Statement .txCrc := by intro bytes h; simp [encode] at h
theorem txFlush : Statement .txFlush := by intro bytes h; simp [encode] at h

end Sys2Proof.Laws.WordShape
end

