-- ==== Sys2Proof/Tests/Slice0.lean ====
section
/-! SUPPORT. Our own tests: well-formedness, decoding of words written out from the spec, one step of every instruction on
the spec's vectors, and for every obligation a concrete state and operands that meet its hypotheses. -/

namespace Sys2Proof.Tests
open Sys2Proof Sys2Proof.Machine

/-! ### Helpers -/

/-- The next state, if there is one. -/
def next? : Answer → Option State
  | .next s => some s
  | .fault _ => none
  | .refused _ => none

/-- The refusal, if there is one. -/
def refusal? : Answer → Option Refusal
  | .next _ => none
  | .fault _ => none
  | .refused r => some r

/-- The three registers as 95_test_vectors.md writes them: `(write_offset, escape_pending, running_crc)`. -/
def registers (o : Answer) : Option (Nat × Bool × Word) :=
  (next? o).map fun s => (s.writeOffset, s.escapePending, s.runningCrc)

/-- The octets the trace holds after a step. -/
def emitted (o : Answer) : Option (List Byte) := (next? o).map fun s => emissions s.trace

/-- The payloads the trace holds after a step. -/
def delivered (o : Answer) : Option (List (List Byte)) := (next? o).map fun s => deliveries s.trace

/-- A session of `BUF_BYTES = bufBytes` that has accumulated the given octets. -/
def holding (bufBytes : Nat) (octets : List Byte) (escapePending : Bool) : State :=
  { State.reset with
    capacity := bufBytes - 1
    escapePending := escapePending
    writeOffset := octets.length
    runningCrc := crcFold Config.CRC_INIT (octets.take (octets.length - 2))
    buffer := (List.range octets.length).zip octets }

/-- The state of V10 before its sixth octet but one: `41 0A 5C` accumulated, `(3, 0, 5C0A)`. -/
def frame41 : State := holding 16 [0x41#8, 0x0A#8, 0x5C#8] false

/-- The same accumulation with bit 0 of the CRC's high octet flipped (V12). -/
def frame41Flipped : State := holding 16 [0x41#8, 0x0A#8, 0x5D#8] false

/-- V10's `(3, 1, 5C0A)`. -/
def frame41Escaped : State := holding 16 [0x41#8, 0x0A#8, 0x5C#8] true

/-- A session whose last `INIT` failed. -/
def unusable : State := { State.reset with usable := false }

/-- The operands of V7's `INIT n`. -/
def initArgs (n : Nat) : InitArgs := ⟨true, true, n, true, true, true, ⟨7⟩⟩

/-! ### Well-formedness: each check refuses an ill-formed term -/

theorem test_wf_rxData_flag : (Instr.rxData 0x7E#8).wellFormed = false := by decide
theorem test_wf_rxData_esc : (Instr.rxData 0x7D#8).wellFormed = false := by decide
theorem test_wf_rxDataEscaped_flag : (Instr.rxDataEscaped 0x7E#8).wellFormed = false := by decide
theorem test_wf_txLiteral_flag : (Instr.txLiteral 0x7E#8).wellFormed = false := by decide
theorem test_wf_txLiteral_esc : (Instr.txLiteral 0x7D#8).wellFormed = false := by decide
theorem test_wf_neighbours :
    (Instr.rxData 0x7C#8).wellFormed = true ∧ (Instr.rxDataEscaped 0x7D#8).wellFormed = true ∧
      (Instr.txLiteral 0x7F#8).wellFormed = true := by decide

/-! ### Decoding: words written out from 30_encoding.md R47 and R52 (`escape_pending` is bit 8) -/

theorem test_decode_rxFlagAbort : decodeTableWord 16 0b1_01111110 = some .rxFlagAbort := by decide
theorem test_decode_rxFlagClose : decodeTableWord 16 0b0_01111110 = some .rxFlagClose := by decide
theorem test_decode_rxEsc : decodeTableWord 16 0b0_01111101 = some .rxEsc := by decide
theorem test_decode_rxData : decodeTableWord 16 0b0_01000001 = some (.rxData 0x41#8) := by decide
theorem test_decode_rxDataEscaped : decodeTableWord 16 0b1_01011110 = some (.rxDataEscaped 0x5E#8) := by decide
theorem test_decode_rxDataEscaped_esc : decodeTableWord 16 0b1_01111101 = some (.rxDataEscaped 0x7D#8) := by decide
theorem test_decode_txEscaped7E : decodeTableWord 8 0b01111110 = some .txEscaped7E := by decide
theorem test_decode_txEscaped7D : decodeTableWord 8 0b01111101 = some .txEscaped7D := by decide
theorem test_decode_txLiteral : decodeTableWord 8 0b01011110 = some (.txLiteral 0x5E#8) := by decide
theorem test_decode_no_mode_bits_above_eight : decodeTableWord 16 0b10_01000001 = none := by decide
theorem test_decode_bytes_rxFlagAbort : decode [0x7E#8, 0x01#8] = .ok .rxFlagAbort := by rfl
theorem test_decode_no_word : decode [] = .error (.noSuchLength 0) ∧
    decode [0x41#8, 0x00#8, 0x00#8] = .error (.noSuchLength 3) := ⟨rfl, rfl⟩

/-! ### A placed word is what the next step runs -/

theorem test_place_rxFlagAbort :
    registers (step (State.reset.withFetchWord 16 0x17E)) = some (0, false, 0xFFFF#16) := by decide
theorem test_place_rxEsc :
    registers (step (State.reset.withFetchWord 16 0x07D)) = some (0, true, 0xFFFF#16) := by decide
theorem test_place_rxData :
    registers (step (State.reset.withFetchWord 16 0x041)) = some (1, false, 0xFFFF#16) := by decide
theorem test_place_rxDataEscaped :
    (next? (step (State.reset.withFetchWord 16 0x15E))).map (fun t => memRead t 0) = some 0x7E#8 := by decide
theorem test_place_txEscaped7D :
    emitted (step (State.reset.withFetchWord 8 0x7D)) = some [0x7D#8, 0x5D#8] := by decide

/-! ### One step of each instruction, on the spec's vectors -/

-- V10: the accumulation, although a valid frame body, is discarded.
theorem test_rxFlagAbort :
    registers (exec .rxFlagAbort frame41Escaped) = some (0, false, 0xFFFF#16) ∧
      delivered (exec .rxFlagAbort frame41Escaped) = some [] := by decide
-- V10's last row.
theorem test_rxFlagClose_delivers :
    registers (exec .rxFlagClose frame41) = some (0, false, 0xFFFF#16) ∧
      delivered (exec .rxFlagClose frame41) = some [[0x41#8]] := by decide
-- V12: `received_crc = 5D0A`, `running_crc = 5C0A`.
theorem test_rxFlagClose_mismatch :
    registers (exec .rxFlagClose frame41Flipped) = some (0, false, 0xFFFF#16) ∧
      delivered (exec .rxFlagClose frame41Flipped) = some [] := by decide
-- V10.
theorem test_rxEsc : registers (exec .rxEsc frame41) = some (3, true, 0x5C0A#16) := by decide
-- V10: `5C` on `41 0A`.
theorem test_rxData_folds :
    registers (exec (.rxData 0x5C#8) (holding 16 [0x41#8, 0x0A#8] false)) = some (3, false, 0x5C0A#16) := by decide
-- V14: the fourth stored octet of capacity 4.
theorem test_rxData_oversize :
    registers (exec (.rxData 0x11#8) (holding 5 [0x41#8, 0x0A#8, 0x5C#8] false)) = some (0, false, 0xFFFF#16) := by
  decide
-- V9, T13: `5E` after `7D` on `3A F3`.
theorem test_rxDataEscaped_stores :
    (next? (exec (.rxDataEscaped 0x5E#8) (holding 16 [0x3A#8, 0xF3#8] true))).map (fun t => memRead t 2) =
      some 0x7E#8 := by decide
theorem test_rxDataEscaped_folds :
    registers (exec (.rxDataEscaped 0x5E#8) (holding 16 [0x3A#8, 0xF3#8] true)) =
      some (3, false, 0x915E#16) := by decide
-- V4.
theorem test_txEscaped7E : emitted (exec .txEscaped7E State.reset) = some [0x7D#8, 0x5E#8] := by decide
theorem test_txEscaped7D : emitted (exec .txEscaped7D State.reset) = some [0x7D#8, 0x5D#8] := by decide
theorem test_txLiteral : emitted (exec (.txLiteral 0x5E#8) State.reset) = some [0x5E#8] := by decide
theorem test_txLiteral_other_class :
    refusal? (exec (.txLiteral 0x7E#8) State.reset) = some .notThisClass := by decide
-- V7.
theorem test_init_smallest :
    (next? (exec (.init (initArgs 3)) frame41)).map (fun t => (t.capacity, t.writeOffset, t.returned)) =
      some (2, 0, some .initOk) := by decide
theorem test_init_buffer_absent :
    (next? (exec (.init { initArgs 16 with buffer := false }) frame41)).map
      (fun t => (t.capacity, t.writeOffset, t.returned)) = some (15, 3, some .initError) := by decide
-- V1.
theorem test_crcStep_48 :
    (next? (exec (.crcStep 0xFFFF#16 0x48#8) unusable)).map (·.returned) = some (some (.crc 0xC1CB#16)) := by decide
theorem test_crcStep_arbitrary :
    (next? (exec (.crcStep 0x1234#16 0x56#8) State.reset)).map (·.returned) = some (some (.crc 0x4006#16)) := by decide
-- V5 row 2: payload and low CRC octet are both the flag value.
theorem test_send_flag_value :
    emitted (exec (.send [0x7E#8]) State.reset) =
      some [0x7E#8, 0x7D#8, 0x5E#8, 0x7D#8, 0x5E#8, 0x95#8, 0x7E#8] := by decide
-- V6: without an output capability, `Flush` only.
theorem test_send_no_output :
    (next? (exec (.send [0x41#8]) { State.reset with capOutput := false })).map (·.trace) =
      some [.flush ⟨0⟩] := by decide
-- V15, T6.
theorem test_rxByte_data :
    registers (exec (.rxByte 0xCA#8) (holding 6 [0x01#8, 0x02#8, 0x72#8] false)) =
      some (4, false, 0xCA72#16) := by decide +kernel
-- V9, T4: an escape octet after an escape is stored inverted.
theorem test_rxByte_escaped_esc :
    (next? (exec (.rxByte 0x7D#8) (holding 16 [] true))).map (fun t => memRead t 0) = some 0x5D#8 := by decide
-- V20, T9: a shared flag, and an escaped CRC octet.
theorem test_rxBuf_two_frames :
    delivered (exec (.rxBuf [0x7E#8, 0x41#8, 0x0A#8, 0x5C#8, 0x7E#8, 0x52#8, 0x10#8, 0x7D#8, 0x5E#8, 0x7E#8])
      State.reset) = some [[0x41#8], [0x52#8]] := by decide +kernel
-- V13: the empty payload.
theorem test_rxBuf_empty_payload :
    delivered (exec (.rxBuf [0x7E#8, 0xFF#8, 0xFF#8, 0x7E#8]) (holding 4 [] false)) = some [[]] := by decide
theorem test_txFlag : emitted (exec .txFlag State.reset) = some [0x7E#8] := by decide
-- V4.
theorem test_txPut_esc : emitted (exec (.txPut 0x7D#8) State.reset) = some [0x7D#8, 0x5D#8] := by decide
theorem test_txPut_plain : emitted (exec (.txPut 0x7C#8) State.reset) = some [0x7C#8] := by decide
-- V5 row 4: the checksum is of the message before escaping.
theorem test_txPayload_crc :
    (next? (exec (.txPayload [0x7E#8, 0x7D#8]) State.reset)).map (·.txCrc) = some 0x320E#16 := by decide +kernel
-- V5 row 15: CRC low `7D`, high `7E`, both escaped, low first.
theorem test_txCrc :
    emitted (exec .txCrc { State.reset with txCrc := 0x7E7D#16 }) =
      some [0x7D#8, 0x5D#8, 0x7D#8, 0x5E#8] := by decide
theorem test_txFlush :
    (next? (exec .txFlush State.reset)).map (·.trace) = some [.flush ⟨0⟩] := by decide

/-! ### Witnesses -/

theorem reset_inv : State.reset.Inv :=
  ⟨by decide, by decide, by decide, by decide, by decide, by decide⟩
theorem frame41_inv : frame41.Inv :=
  ⟨by decide, by decide, by decide, by decide, by decide, by decide⟩
theorem frame41Flipped_inv : frame41Flipped.Inv :=
  ⟨by decide, by decide, by decide, by decide, by decide, by decide⟩

/-- A launched session whose next delivery sends a message of its own. -/
def frame41Answering : State := { frame41 with deliverPlan := [[.send [0x41#8]]] }

theorem launched_of_no_plan (s : State) (hu : s.usable = true) (hp : s.deliverPlan = []) : s.Launched :=
  ⟨hu, fun calls h => by rw [hp] at h; cases h⟩

theorem frame41Answering_launched : frame41Answering.Launched := by
  refine ⟨rfl, fun calls h c hc => ?_⟩
  rw [List.mem_singleton.mp h] at hc
  exact ⟨_, List.mem_singleton.mp hc⟩

theorem frame41Answering_inv : frame41Answering.Inv :=
  ⟨by decide, by decide, by decide, by decide, by decide, by decide⟩

theorem frame41_valid : frame41.HoldsValidFrame := ⟨by decide, by decide⟩

/-- One octet short of `capacity`. -/
def nearlyFull (escapePending : Bool) : State := holding 4 [0x41#8, 0x0A#8] escapePending

theorem nearlyFull_inv (e : Bool) : (nearlyFull e).Inv := by
  cases e <;> exact ⟨by decide, by decide, by decide, by decide, by decide, by decide⟩

theorem witness_CrcStepEqualsItsShiftForm :
    (0x33#8 : Byte) = 0x41#8 ^^^ lo8 0x1272#16 ∧ (0x03#8 : Byte) = 0x33#8 ^^^ (0x33#8 <<< 4) := by decide

theorem witness_TxFlagEmitsTheBoundaryOctet : State.reset.usable = true := rfl
theorem witness_TxPutFollowsTheEscapingRule : frame41.usable = true := rfl
theorem witness_TxClassesEmitTheirOctets :
    frame41.usable = true ∧ (0x7F#8 : Byte) ≠ 0x7E#8 ∧ (0x7F#8 : Byte) ≠ 0x7D#8 := by decide
theorem witness_TxPayloadFoldsAndEmitsTheMessage : frame41Escaped.usable = true := rfl
theorem witness_TxCrcEmitsLowThenHigh : ({ State.reset with txCrc := 0x7E7D#16 } : State).usable = true := rfl
theorem witness_TxFlushRaisesOneFlush : ({ State.reset with capFlush := false } : State).usable = true := rfl
theorem witness_SendEmitsTheWireFrameThenFlushes :
    frame41.usable = true ∧ frame41.capOutput = true ∧ frame41.capFlush = true := by decide
theorem witness_SendWithAbsentCapabilities :
    (let s := { State.reset with capOutput := false }; s.usable = true ∧ (s.capOutput = false ∨ s.capFlush = false)) ∧
    (let s := { State.reset with capFlush := false }; s.usable = true ∧ (s.capOutput = false ∨ s.capFlush = false)) := by
  decide
theorem witness_SendIsItsFiveStepsInOrder : frame41.usable = true := rfl

theorem witness_SendDoesNotDisturbReception :
    (∃ t₁ t₂, andThen (exec (.send [0x41#8]) frame41) (exec (.rxByte 0x7E#8)) = .next t₁ ∧
      andThen (exec (.rxByte 0x7E#8) frame41) (exec (.send [0x41#8])) = .next t₂ ∧
      frame41.deliverPlan.headD [] = []) ∧
    (∃ t₁ t₂, andThen (exec (.send []) frame41Answering) (exec (.rxByte 0x7E#8)) = .next t₁ ∧
      andThen (exec (.rxByte 0x7E#8) frame41Answering) (exec (.send [])) = .next t₂ ∧
      frame41Answering.deliverPlan.headD [] ≠ []) :=
  ⟨⟨_, _, rfl, rfl, rfl⟩, ⟨_, _, rfl, rfl, by decide⟩⟩

theorem witness_RxFlagAbortDiscardsWithoutLooking :
    frame41Escaped.usable = true ∧ frame41Escaped.escapePending = true := by decide

theorem witness_RxFlagCloseDeliversAValidFrame :
    (let s := frame41; s.usable = true ∧ s.escapePending = false ∧ s.writeOffset ≤ s.bufBytes ∧ 2 ≤ s.writeOffset ∧
      s.runningCrc = concat16 (memRead s (s.writeOffset - 1)) (memRead s (s.writeOffset - 2)) ∧
      s.capDeliver = true ∧ s.deliverPlan.headD [] = []) ∧
    (let s := holding 4 [0xFF#8, 0xFF#8] false; s.usable = true ∧ s.escapePending = false ∧
      s.writeOffset ≤ s.bufBytes ∧ 2 ≤ s.writeOffset ∧
      s.runningCrc = concat16 (memRead s (s.writeOffset - 1)) (memRead s (s.writeOffset - 2)) ∧
      s.capDeliver = true ∧ s.deliverPlan.headD [] = []) := by decide

theorem witness_ValidFrameWithoutADeliveryCapability :
    ∃ s : State, s.usable = true ∧ s.escapePending = false ∧ s.writeOffset ≤ s.bufBytes ∧
      s.HoldsValidFrame ∧ s.capDeliver = false :=
  ⟨{ frame41 with capDeliver := false }, by decide, by decide, by decide, ⟨by decide, by decide⟩, by decide⟩

theorem witness_RxFlagCloseDiscardsAnInvalidFrame :
    (let s := holding 16 [0x41#8] false; s.usable = true ∧ s.escapePending = false ∧ s.writeOffset ≤ s.bufBytes ∧
      s.writeOffset < 2) ∧
    (let s := holding 16 [0xFF#8, 0xFE#8] false; s.usable = true ∧ s.escapePending = false ∧
      s.writeOffset ≤ s.bufBytes ∧
      s.runningCrc ≠ concat16 (memRead s (s.writeOffset - 1)) (memRead s (s.writeOffset - 2))) := by decide

theorem witness_BoundaryOctetResynchronises : frame41Answering.Inv ∧ frame41Answering.Launched :=
  ⟨frame41Answering_inv, frame41Answering_launched⟩

theorem witness_RxEscSetsTheFlagOnly : frame41.usable = true ∧ frame41.escapePending = false := by decide

theorem witness_RxDataStoresFoldsAndAdvances :
    (let s := holding 16 [0x41#8] false; s.usable = true ∧ s.escapePending = false ∧ (0x7C#8 : Byte) ≠ 0x7E#8 ∧
      (0x7C#8 : Byte) ≠ 0x7D#8 ∧ s.writeOffset < s.bufBytes ∧ s.writeOffset + 1 ≠ s.capacity ∧ ¬ 2 ≤ s.writeOffset) ∧
    (let s := holding 16 [0x41#8, 0x0A#8] false; s.usable = true ∧ s.escapePending = false ∧
      s.writeOffset < s.bufBytes ∧ s.writeOffset + 1 ≠ s.capacity ∧ 2 ≤ s.writeOffset) ∧
    (let s := nearlyFull false; s.usable = true ∧ s.escapePending = false ∧ s.writeOffset < s.bufBytes ∧
      s.writeOffset + 1 = s.capacity) := by decide

theorem witness_RxDataEscapedStoresTheInvertedOctet :
    (let s := holding 16 [0x41#8] true; s.usable = true ∧ s.escapePending = true ∧ (0x7D#8 : Byte) ≠ 0x7E#8 ∧
      s.writeOffset < s.bufBytes ∧ s.writeOffset + 1 ≠ s.capacity ∧ ¬ 2 ≤ s.writeOffset) ∧
    (let s := holding 16 [0x41#8, 0x0A#8] true; s.usable = true ∧ s.escapePending = true ∧
      s.writeOffset < s.bufBytes ∧ s.writeOffset + 1 ≠ s.capacity ∧ 2 ≤ s.writeOffset) ∧
    (let s := nearlyFull true; s.usable = true ∧ s.escapePending = true ∧ s.writeOffset < s.bufBytes ∧
      s.writeOffset + 1 = s.capacity) := by decide

theorem witness_OversizeDropsTheAccumulation :
    (let s := nearlyFull true; s.usable = true ∧ s.writeOffset + 1 = s.capacity ∧ (0x7D#8 : Byte) ≠ 0x7E#8 ∧
      ((0x7D#8 : Byte) = 0x7D#8 → s.escapePending = true)) ∧
    (let s := nearlyFull false; s.usable = true ∧ s.writeOffset + 1 = s.capacity ∧ (0x7F#8 : Byte) ≠ 0x7E#8 ∧
      ((0x7F#8 : Byte) = 0x7D#8 → s.escapePending = true)) := by decide

theorem witness_RxByteCompletes : (nearlyFull true).Inv ∧ (nearlyFull true).Launched :=
  ⟨nearlyFull_inv true, launched_of_no_plan _ rfl rfl⟩
theorem witness_RxBufIsRxBytePerOctet : frame41.usable = true := rfl
theorem witness_RxBufSplitsAnywhere : frame41Escaped.usable = true := rfl
theorem witness_RxBufCompletes : frame41Answering.Inv ∧ frame41Answering.Launched :=
  ⟨frame41Answering_inv, frame41Answering_launched⟩

theorem witness_EscapePendingLastsOneOctet :
    (∃ t, exec (.rxByte 0x7D#8) (nearlyFull true) = .next t ∧ (nearlyFull true).escapePending = true) ∧
    (∃ t, exec (.rxByte 0x7D#8) frame41 = .next t ∧ t.escapePending = true) :=
  ⟨⟨_, rfl, rfl⟩, ⟨_, rfl, rfl⟩⟩

theorem witness_NamedStatesMoveAsStated :
    (frame41.Inv ∧ ∃ t, exec (.rxByte 0x7E#8) frame41 = .next t) ∧
    (frame41.Inv ∧ (∃ t, exec (.rxByte 0x7D#8) frame41 = .next t) ∧ isEscaped frame41 = false) ∧
    (frame41.Inv ∧ (∃ t, exec (.rxByte 0x41#8) frame41 = .next t) ∧ frame41.writeOffset + 1 < frame41.capacity) ∧
    ((nearlyFull true).Inv ∧ (∃ t, exec (.rxByte 0x7D#8) (nearlyFull true) = .next t) ∧
      isEscaped (nearlyFull true) = true ∧ (nearlyFull true).writeOffset + 1 = (nearlyFull true).capacity) :=
  ⟨⟨frame41_inv, _, rfl⟩, ⟨frame41_inv, ⟨_, rfl⟩, rfl⟩, ⟨frame41_inv, ⟨_, rfl⟩, by decide⟩,
    ⟨nearlyFull_inv true, ⟨_, rfl⟩, rfl, rfl⟩⟩

theorem witness_ConsumerSendsInsideADelivery :
    (let s := frame41Answering; s.usable = true ∧ s.escapePending = false ∧ s.writeOffset ≤ s.bufBytes ∧
      s.capDeliver = true ∧ s.deliverPlan.headD [] = [[0x41#8]].map CapCall.send) ∧
    frame41Answering.HoldsValidFrame :=
  ⟨by decide, ⟨by decide, by decide⟩⟩

/-- The consumers of `ReentrantConsumerIsRefused`: one feeds, one constructs. -/
def frame41Reentrant (c : CapCall) : State := { frame41 with deliverPlan := [[.send [], c]] }

theorem witness_ReentrantConsumerIsRefused :
    (let s := frame41Reentrant (.feed [0x41#8]); (s.usable = true ∧ s.escapePending = false ∧
      s.writeOffset ≤ s.bufBytes ∧ s.capDeliver = true) ∧ s.HoldsValidFrame ∧
      s.deliverPlan.headD [] = [[]].map CapCall.send ++ .feed [0x41#8] :: []) ∧
    (let s := frame41Reentrant (.construct (initArgs 16)); (s.usable = true ∧ s.escapePending = false ∧
      s.writeOffset ≤ s.bufBytes ∧ s.capDeliver = true) ∧ s.HoldsValidFrame ∧
      s.deliverPlan.headD [] = [[]].map CapCall.send ++ .construct (initArgs 16) :: []) :=
  ⟨⟨by decide, ⟨by decide, by decide⟩, by decide⟩, ⟨by decide, ⟨by decide, by decide⟩, by decide⟩⟩

theorem witness_ClassRowsRunOnlyInTheirClass :
    (frame41.usable = true ∧ frame41.escapePending = false) ∧
    (frame41Escaped.usable = true ∧ frame41Escaped.escapePending = true) := by decide

/-- No run reaches these: the offset stands at, or beyond, the end of a buffer of 4 octets. -/
def beyond (offset : Nat) (escapePending : Bool) : State :=
  { holding 4 [] escapePending with writeOffset := offset }

theorem witness_IndexOutsideTheBufferFaults :
    (let s := beyond 4 false; s.usable = true ∧ (0x41#8 : Byte) ≠ 0x7E#8 ∧ s.bufBytes ≤ s.writeOffset ∧
      s.escapePending = false ∧ (0x41#8 : Byte) ≠ 0x7D#8) ∧
    (let s := beyond 4 true; s.usable = true ∧ s.bufBytes ≤ s.writeOffset ∧ s.escapePending = true) ∧
    (let s := beyond 5 false; s.usable = true ∧ s.bufBytes < s.writeOffset ∧ 2 ≤ s.writeOffset ∧
      s.escapePending = false) := by decide

/-- The longest payload reset's buffer delivers has 28 octets (V15). -/
theorem witness_EncodedFramesRoundTrip :
    State.reset.Inv ∧ State.reset.Launched ∧ State.reset.capDeliver = true ∧ State.reset.AtRest ∧
    (List.replicate 28 (0x7E#8 : Byte)).length + 3 ≤ State.reset.capacity ∧
    State.reset.capacity < (List.replicate 29 (0x7E#8 : Byte)).length + 3 :=
  ⟨reset_inv, launched_of_no_plan _ rfl rfl, rfl, ⟨rfl, rfl, rfl⟩, by decide, by decide⟩

theorem witness_ConcatenatedFramesAreDeliveredInOrder :
    State.reset.Inv ∧ State.reset.Launched ∧ State.reset.capDeliver = true ∧ State.reset.AtRest ∧
    ∀ p ∈ [[0x41#8], [], [(0x7D#8 : Byte)]], p.length + 3 ≤ State.reset.capacity :=
  ⟨reset_inv, launched_of_no_plan _ rfl rfl, rfl, ⟨rfl, rfl, rfl⟩, by decide⟩

theorem witness_LoopbackDeliversTheMessage :
    State.reset.Inv ∧ State.reset.Launched ∧ State.reset.AtRest ∧ State.reset.capOutput = true ∧
    State.reset.capDeliver = true ∧ (List.replicate 28 (0x7D#8 : Byte)).length + 3 ≤ State.reset.capacity :=
  ⟨reset_inv, launched_of_no_plan _ rfl rfl, ⟨rfl, rfl, rfl⟩, rfl, rfl, by decide⟩

theorem witness_EveryDeliveredPayloadFits :
    frame41.Inv ∧ ∃ t, exec (.rxBuf [0x7E#8, 0x41#8]) frame41 = .next t ∧
      t.trace = [Event.deliver ⟨0⟩ [0x41#8]] :=
  ⟨frame41_inv, _, rfl, by decide⟩

theorem witness_SingleBitErrorPreventsDelivery :
    frame41.Inv ∧ frame41Flipped.Inv ∧ frame41.usable = true ∧ frame41.escapePending = false ∧
    frame41.HoldsValidFrame ∧ frame41Flipped.usable = true ∧ frame41Flipped.escapePending = false ∧
    frame41Flipped.writeOffset = frame41.writeOffset ∧ 2 < frame41.writeOffset ∧
    memRead frame41Flipped 2 = memRead frame41 2 ^^^ (1#8 <<< 0) ∧
    ∀ a, a < frame41.writeOffset → a ≠ 2 → memRead frame41Flipped a = memRead frame41 a :=
  ⟨frame41_inv, frame41Flipped_inv, rfl, rfl, frame41_valid, rfl, rfl, rfl, by decide, by decide, by decide⟩

/-- `frame41` with bit 7 of its payload octet flipped. -/
def frame41PayloadFlipped : State := holding 16 [0xC1#8, 0x0A#8, 0x5C#8] false

theorem frame41PayloadFlipped_inv : frame41PayloadFlipped.Inv :=
  ⟨by decide, by decide, by decide, by decide, by decide, by decide⟩

/-- The same for the first octet and the highest bit: an octet of the payload. -/
theorem witness_SingleBitErrorPreventsDelivery_payload :
    frame41.Inv ∧ frame41PayloadFlipped.Inv ∧ frame41.usable = true ∧ frame41.escapePending = false ∧
    frame41.HoldsValidFrame ∧ frame41PayloadFlipped.usable = true ∧ frame41PayloadFlipped.escapePending = false ∧
    frame41PayloadFlipped.writeOffset = frame41.writeOffset ∧ 0 < frame41.writeOffset ∧
    memRead frame41PayloadFlipped 0 = memRead frame41 0 ^^^ (1#8 <<< 7) ∧
    ∀ a, a < frame41.writeOffset → a ≠ 0 → memRead frame41PayloadFlipped a = memRead frame41 a :=
  ⟨frame41_inv, frame41PayloadFlipped_inv, rfl, rfl, frame41_valid, rfl, rfl, rfl, by decide, by decide, by decide⟩

/-- `frame41` with other octets above its offset and another number of `INIT`s. -/
def frame41Other : State :=
  { frame41 with buffer := frame41.buffer ++ [(3, 0x99#8), (7, 0x7E#8)], initCount := 5 }

theorem witness_UnwrittenOctetsNeverReachTheTrace :
    AgreeButUnwritten frame41 frame41Other ∧ ∃ t, exec (.rxBuf [0x7E#8, 0x41#8]) frame41 = .next t :=
  ⟨⟨rfl, by decide⟩, _, rfl⟩

theorem witness_InitConstructsAFreshDecoder :
    ((initArgs 3).handle = true ∧ (initArgs 3).buffer = true ∧ 3 ≤ (initArgs 3).bufBytes) ∧
    (let a := { initArgs 16 with handle := false }; a.handle = false ∨ a.buffer = false) := by decide
theorem witness_FailedInitWritesNothing :
    (let a := { initArgs 16 with handle := false }; a.handle = false ∨ a.buffer = false) ∧
    (let a := { initArgs 16 with buffer := false }; a.handle = false ∨ a.buffer = false) := by decide
theorem witness_InitBelowThreeOctetsIsRefused :
    (initArgs 2).handle = true ∧ (initArgs 2).buffer = true ∧ (initArgs 2).bufBytes < 3 := by decide
theorem witness_UnconstructedSessionIsRefused :
    unusable.usable = false ∧ (∀ a, Instr.txFlag ≠ .init a) ∧ (∀ c b, Instr.txFlag ≠ .crcStep c b) :=
  ⟨rfl, nofun, nofun⟩

/-- `frame41` about to receive an octet. -/
def frame41Fed (b : Byte) : State := { frame41 with inputs := [.rxOctet b] }

theorem frame41Fed_inv (b : Byte) : (frame41Fed b).Inv :=
  ⟨frame41_inv.1, frame41_inv.2, frame41_inv.3, frame41_inv.4, frame41_inv.5, frame41_inv.6⟩

theorem witness_EveryStepKeepsTheInvariant :
    (frame41Fed 0x7E#8).Inv ∧ ∃ t, step (frame41Fed 0x7E#8) = .next t ∧
      t.trace = [Event.deliver ⟨0⟩ [0x41#8]] :=
  ⟨frame41Fed_inv _, _, rfl, by decide⟩
theorem witness_NoStepFaultsUnderTheInvariant : (frame41Fed 0x41#8).Inv := frame41Fed_inv _

theorem witness_StepRunsTheDecodedInstruction :
    State.reset.inputs = [] ∧
    ({ State.reset with inputs := [.call (.send [0x41#8])] } : State).inputs = .call (.send [0x41#8]) :: [] ∧
    ((frame41Fed 0x7E#8).inputs = .rxOctet 0x7E#8 :: [] ∧
      decode (rxWordBytes (frame41Fed 0x7E#8).escapePending 0x7E#8) = .ok .rxFlagClose) ∧
    (({ State.reset with inputs := [.txOctet 0x7D#8] } : State).inputs = .txOctet 0x7D#8 :: [] ∧
      decode [0x7D#8] = .ok .txEscaped7D) :=
  ⟨rfl, rfl, ⟨rfl, rfl⟩, ⟨rfl, rfl⟩⟩

theorem witness_PlacedTableWordRunsNext :
    decodeTableWord 16 0x17E = some .rxFlagAbort ∧ decodeTableWord 8 0x7E = some .txEscaped7E := by decide

theorem witness_StepTakesOneInputAndAppendsToTheTrace :
    ∃ t, step (frame41Fed 0x7E#8) = .next t ∧ t.trace ≠ (frame41Fed 0x7E#8).trace := ⟨_, rfl, by decide⟩

theorem witness_OnlyInitChangesTheConfiguration :
    (∀ a, Instr.rxFlagClose ≠ .init a) ∧ ∃ t, exec .rxFlagClose frame41 = .next t := ⟨nofun, _, rfl⟩

theorem witness_EncoderAndChecksumLeaveTheDecoderAlone :
    Instr.send [0x41#8] ∈ [Instr.crcStep 0#16 0#8, .send [0x41#8], .txFlag, .txPut 0#8, .txPayload [0x41#8],
      .txCrc, .txFlush, .txEscaped7E, .txEscaped7D, .txLiteral 0#8] ∧
    ∃ t, exec (.send [0x41#8]) frame41 = .next t := ⟨by decide, _, rfl⟩

/-- The last octet below the guard byte is stored, and the guard byte's index is `capacity`. -/
theorem witness_GuardOctetIsNeverWritten :
    (nearlyFull false).Inv ∧ (∀ a, Instr.rxData 0x41#8 ≠ .init a) ∧
    (∃ t, exec (.rxData 0x41#8) (nearlyFull false) = .next t) ∧ (nearlyFull false).capacity ≤ 3 :=
  ⟨nearlyFull_inv false, nofun, ⟨_, rfl⟩, by decide⟩

theorem witness_DecodeAndEncodeAgree :
    ((Instr.rxDataEscaped 0x7D#8).wellFormed = true ∧
      encode (.rxDataEscaped 0x7D#8) = some [0x7D#8, 0x01#8]) ∧
    decode [0x7D#8, 0x01#8] = .ok (.rxDataEscaped 0x7D#8) := ⟨by decide, rfl⟩

end Sys2Proof.Tests
end

section
/-! SUPPORT. The statements of 10_state.md: reset, the configuration, the mode bit, the invariant, and two simulations of the
decoder, one over the buffer's unwritten octets and one over what `SEND` puts in the trace. -/

namespace Sys2Proof.Machine

/-! ### What a stored octet leaves -/

theorem afterStore_of_full (v : Byte) (s : State) (h : s.writeOffset + 1 = s.capacity) :
    afterStore v s = discardAndReset (storeOctet v s) := if_pos h

theorem afterStore_of_room (v : Byte) (s : State) (h : s.writeOffset + 1 ≠ s.capacity) :
    afterStore v s = { storeOctet v s with
      writeOffset := s.writeOffset + 1
      runningCrc := if 2 ≤ s.writeOffset
        then crcStep s.runningCrc (memRead s (s.writeOffset - 2)) else s.runningCrc } := if_neg h

/-- Beside the buffer, a stored octet changes the offset and the accumulator only. -/
theorem afterStore_eq_update (v : Byte) (s : State) :
    ∃ w c, afterStore v s = { storeOctet v s with writeOffset := w, runningCrc := c } := by
  by_cases h : s.writeOffset + 1 = s.capacity
  · exact ⟨_, _, afterStore_of_full v s h⟩
  · exact ⟨_, _, afterStore_of_room v s h⟩

@[simp] theorem afterStore_escapePending (v : Byte) (s : State) :
    (afterStore v s).escapePending = s.escapePending := by
  obtain ⟨w, c, h⟩ := afterStore_eq_update v s
  rw [h]
  rfl

@[simp] theorem afterStore_trace (v : Byte) (s : State) : (afterStore v s).trace = s.trace := by
  obtain ⟨w, c, h⟩ := afterStore_eq_update v s
  rw [h]
  rfl

/-! ### The mode bit -/

theorem deliver_escapePending (p : List Byte) (s t : State) (h : deliver p s = .next t) :
    t.escapePending = s.escapePending := by
  rcases deliver_cases p s t h with ⟨-, rfl⟩ | ⟨-, msgs, -, rfl⟩ <;> rfl

theorem closeFrame_escapePending (s t : State) (h : closeFrame s = .next t) :
    t.escapePending = s.escapePending := by
  rcases closeFrame_cases s t h with ⟨-, -, u, hu, rfl⟩ | ⟨-, rfl⟩
  · exact deliver_escapePending _ s u hu
  · rfl

/-- After one octet an escape is pending exactly when that octet was `ESC` and none was pending before (R12). -/
theorem receiveOctet_escapePending (b : Byte) (s t : State) (h : receiveOctet b s = .next t) :
    t.escapePending = true ↔ b = Config.ESC ∧ s.escapePending = false := by
  rcases receiveOctet_cases b s t h with ⟨rfl, -, rfl⟩ | ⟨rfl, he, hc⟩ | ⟨rfl, he, rfl⟩ | ⟨-, hb, he, -, rfl⟩ |
    ⟨-, he, -, rfl⟩
  · simp [abortFrame]
  · simp [closeFrame_escapePending s t hc, he]
  · simp [he]
  · simp [hb, he]
  · simp [he]

theorem exec_rxByte_cases (b : Byte) (s t : State) (h : exec (.rxByte b) s = .next t) :
    s.usable = true ∧ receiveOctet b (clearReturned s) = .next t :=
  inSession_cases (receiveOctet b) s t h

/-- Settles O34: after an octet the mode bit is set exactly when the octet was `ESC` and the bit was clear. -/
theorem escapePendingLastsOneOctet : Obligations.EscapePendingLastsOneOctet := by
  intro s t b h
  have key := receiveOctet_escapePending b _ t (exec_rxByte_cases b s t h).2
  refine ⟨fun he => ?_, key.mp⟩
  by_contra ht
  have hs := (key.mp (by simpa using ht)).2
  simp [he] at hs

/-! ### The configuration -/

theorem SameConfiguration_refl (s : State) : SameConfiguration s s := ⟨rfl, rfl, rfl, rfl, rfl, rfl, rfl⟩

theorem SameConfiguration_trans {s t u : State} (h : SameConfiguration s t) (k : SameConfiguration t u) :
    SameConfiguration s u :=
  ⟨k.capacity.trans h.capacity, k.capOutput.trans h.capOutput, k.capFlush.trans h.capFlush,
    k.capDeliver.trans h.capDeliver, k.userCtx.trans h.userCtx, k.usable.trans h.usable,
    k.initCount.trans h.initCount⟩

/-- No elementary move touches the configuration. -/
theorem Move_sameConfiguration {s t : State} (m : Move s t) : SameConfiguration s t := by
  cases m with
  | stores v _ =>
    obtain ⟨w, c, h⟩ := afterStore_eq_update v s
    rw [h]
    exact ⟨rfl, rfl, rfl, rfl, rfl, rfl, rfl⟩
  | returns | raises | encodes | flags | discards | consumes => exact ⟨rfl, rfl, rfl, rfl, rfl, rfl, rfl⟩

theorem Moves_sameConfiguration {s t : State} (h : Moves s t) : SameConfiguration s t :=
  Moves_keep (P := SameConfiguration s) (fun _ _ m hs => SameConfiguration_trans hs (Move_sameConfiguration m)) h
    (SameConfiguration_refl s)

/-- Settles O55: every instruction but `INIT` is a sequence of moves, and no move touches the configuration. -/
theorem onlyInitChangesTheConfiguration : Obligations.OnlyInitChangesTheConfiguration :=
  fun s t i hi h => Moves_sameConfiguration (exec_moves i hi s t h)

/-! ### The invariant -/

theorem crcFold_append (c : Word) (xs ys : List Byte) :
    crcFold c (xs ++ ys) = crcFold (crcFold c xs) ys := by
  induction xs generalizing c with
  | nil => rfl
  | cons x xs ih => exact ih (crcStep c x)

theorem payloadSpan_of_short (s : State) (h : s.writeOffset ≤ 2) : payloadSpan s = [] := by
  simp [payloadSpan, Nat.sub_eq_zero_of_le h]

/-- The payload span depends only on the offset and on the octets below it. -/
theorem payloadSpan_congr {s t : State} (hw : t.writeOffset = s.writeOffset)
    (ha : ∀ i, i < s.writeOffset → memRead t i = memRead s i) : payloadSpan t = payloadSpan s := by
  unfold payloadSpan
  rw [hw]
  refine List.map_congr_left fun i hi => ha i ?_
  have := List.mem_range.mp hi
  omega

/-- A decoder with nothing stored and nothing accumulated meets the invariant (R26). -/
theorem inv_of_fresh {s : State} (hc : 2 ≤ s.capacity) (hw : s.writeOffset = 0)
    (hr : s.runningCrc = Config.CRC_INIT) (hb : s.buffer = []) : s.Inv where
  capacity_ge := hc
  offset_lt := by omega
  buffer_wf := by simp [hb]
  below_guard := by simp [hb]
  accumulated := by simp [hw]
  crc_lags := by rw [payloadSpan_of_short s (by omega), hr]; rfl

theorem discardAndReset_inv {s : State} (hc : 2 ≤ s.capacity) (hm : Memory.wf s.buffer)
    (hg : ∀ c ∈ s.buffer, c.1 < s.capacity) : (discardAndReset s).Inv where
  capacity_ge := hc
  offset_lt := by simp only [discardAndReset_writeOffset, discardAndReset_capacity]; omega
  buffer_wf := hm
  below_guard := hg
  accumulated := by simp
  crc_lags := by rw [payloadSpan_of_short _ (by simp)]; rfl

/-- What a store below `capacity` leaves in the buffer is still below it. -/
theorem storeOctet_below_guard {s : State} (h : s.Inv) (v : Byte) :
    ∀ c ∈ (storeOctet v s).buffer, c.1 < s.capacity := by
  intro c hc
  rcases mem_write _ _ _ c hc with rfl | hc
  · exact h.offset_lt
  · exact h.below_guard c hc

/-- After a store every octet up to the one stored is defined. -/
theorem storeOctet_accumulated {s : State} (h : s.Inv) (v : Byte) (i : Nat) (hi : i < s.writeOffset + 1) :
    (Memory.read? (storeOctet v s).buffer i).isSome := by
  rw [storeOctet_buffer]
  by_cases he : i = s.writeOffset
  · rw [he, read_write_same]
    rfl
  · rw [read_write_other _ _ _ _ he]
    exact h.accumulated i (by omega)

/-- The payload span grows by the octet that falls two positions behind the one stored (R19). -/
theorem payloadSpan_afterStore (v : Byte) (s : State) (hr : s.writeOffset + 1 ≠ s.capacity)
    (h2 : 2 ≤ s.writeOffset) :
    payloadSpan (afterStore v s) = payloadSpan s ++ [memRead s (s.writeOffset - 2)] := by
  have hother : ∀ i, i ≠ s.writeOffset → memRead (afterStore v s) i = memRead s i := fun i hi => by
    rw [afterStore_of_room v s hr]
    exact memRead_storeOctet_other v s i hi
  have hw : (afterStore v s).writeOffset - 2 = (s.writeOffset - 2) + 1 := by
    rw [afterStore_of_room v s hr]
    show s.writeOffset + 1 - 2 = _
    omega
  rw [payloadSpan, hw, List.range_succ, List.map_append, List.map_singleton, hother _ (by omega)]
  congr 1
  refine List.map_congr_left fun i hi => hother i ?_
  have := List.mem_range.mp hi
  omega

/-- The accumulator goes on lagging by two octets over a store. -/
theorem afterStore_crc_lags {s : State} (h : s.Inv) (v : Byte) (hr : s.writeOffset + 1 ≠ s.capacity) :
    (afterStore v s).runningCrc = crcFold Config.CRC_INIT (payloadSpan (afterStore v s)) := by
  by_cases h2 : 2 ≤ s.writeOffset
  · rw [payloadSpan_afterStore v s hr h2, crcFold_append, ← h.crc_lags, afterStore_of_room v s hr]
    simp [h2, crcFold]
  · rw [payloadSpan_of_short (afterStore v s) (by rw [afterStore_of_room v s hr]; show s.writeOffset + 1 ≤ 2; omega),
      afterStore_of_room v s hr]
    simp [h2, h.crc_lags, payloadSpan_of_short s (by omega)]

theorem afterStore_inv {s : State} (h : s.Inv) (v : Byte) : (afterStore v s).Inv := by
  have hwf : Memory.wf (storeOctet v s).buffer := write_keeps_wf _ _ _ h.buffer_wf
  have hguard := storeOctet_below_guard h v
  by_cases hr : s.writeOffset + 1 = s.capacity
  · rw [afterStore_of_full v s hr]
    exact discardAndReset_inv h.capacity_ge hwf hguard
  · have hcrc := afterStore_crc_lags h v hr
    have hlt : s.writeOffset + 1 < s.capacity := by have := h.offset_lt; omega
    rw [afterStore_of_room v s hr] at hcrc ⊢
    exact ⟨h.capacity_ge, hlt, hwf, hguard, storeOctet_accumulated h v, hcrc⟩

/-- Every elementary move keeps the invariant. -/
theorem Move_inv {s t : State} (m : Move s t) (h : s.Inv) : t.Inv := by
  cases m with
  | stores v _ => exact afterStore_inv h v
  | discards => exact discardAndReset_inv h.capacity_ge h.buffer_wf h.below_guard
  | returns | raises | encodes | flags | consumes =>
    exact ⟨h.capacity_ge, h.offset_lt, h.buffer_wf, h.below_guard, h.accumulated, h.crc_lags⟩

/-- `INIT`, when it answers next: the session constructed, or the construction error (R120, R121). -/
theorem execInit_cases (a : InitArgs) (s t : State) (h : execInit a s = .next t) :
    (Config.minBufBytes ≤ a.bufBytes ∧ t = constructSession a s) ∨ t = raiseInitError a s := by
  unfold execInit at h
  split at h
  · split at h
    · rename_i hb
      exact .inl ⟨hb, by simpa using h.symm⟩
    · cases h
  · exact .inr (by simpa using h.symm)

theorem execInit_inv (a : InitArgs) {s t : State} (hs : s.Inv) (h : execInit a s = .next t) : t.Inv := by
  rcases execInit_cases a s t h with ⟨hb, rfl⟩ | rfl
  · exact inv_of_fresh (Nat.le_sub_of_add_le hb) rfl rfl rfl
  · exact ⟨hs.capacity_ge, hs.offset_lt, hs.buffer_wf, hs.below_guard, hs.accumulated, hs.crc_lags⟩

theorem exec_inv (i : Instr) {s t : State} (hs : s.Inv) (h : exec i s = .next t) : t.Inv := by
  by_cases hi : ∃ a, i = .init a
  · obtain ⟨a, rfl⟩ := hi
    exact execInit_inv a hs h
  · exact Moves_keep (fun _ _ m => Move_inv m) (exec_moves i (fun a ha => hi ⟨a, ha⟩) s t h) hs

theorem runWord_cases (bytes : List Byte) (s t : State) (h : runWord bytes s = .next t) :
    ∃ i, decode bytes = .ok i ∧ exec i s = .next t := by
  unfold runWord at h
  split at h
  · exact ⟨_, ‹_›, h⟩
  · cases h

/-- A step that answers next holds the state, or runs one instruction with the first input taken. -/
theorem step_cases (s t : State) (h : step s = .next t) :
    t = s ∨ ∃ i rest, exec i (takeInput rest s) = .next t := by
  unfold step at h
  split at h
  · exact .inl (by simpa using h.symm)
  · exact .inr ⟨_, _, h⟩
  · obtain ⟨i, -, hi⟩ := runWord_cases _ _ _ h
    exact .inr ⟨i, _, hi⟩
  · obtain ⟨i, -, hi⟩ := runWord_cases _ _ _ h
    exact .inr ⟨i, _, hi⟩

theorem takeInput_inv {s : State} (h : s.Inv) (rest : List Input) : (takeInput rest s).Inv :=
  ⟨h.capacity_ge, h.offset_lt, h.buffer_wf, h.below_guard, h.accumulated, h.crc_lags⟩

/-- Settles O50: taking an input keeps the invariant, `INIT` establishes or leaves it, and every other instruction is a
sequence of moves that keep it. -/
theorem everyStepKeepsTheInvariant : Obligations.EveryStepKeepsTheInvariant := by
  intro s t hs h
  rcases step_cases s t h with rfl | ⟨i, rest, hi⟩
  · exact hs
  · exact exec_inv i (takeInput_inv hs rest) hi

/-- Settles O49: the reset state is fresh, and its plan and trace are empty. -/
theorem resetIsAFreshDecoder : Obligations.ResetIsAFreshDecoder :=
  ⟨⟨rfl, rfl, rfl⟩, inv_of_fresh (by decide) rfl rfl rfl,
    ⟨rfl, fun _ h => absurd h List.not_mem_nil⟩, rfl⟩

/-! ### Two runs of the decoder side by side -/

theorem deliver_of_absent (p : List Byte) (s : State) (h : s.capDeliver = false) : deliver p s = .next s :=
  if_neg (by simp [h])

/-- If the first answers next, so does the second, in a related state. -/
def AnswersRelated (R : State → State → Prop) (o o' : Answer) : Prop :=
  ∀ s', o = .next s' → ∃ t', o' = .next t' ∧ R s' t'

theorem AnswersRelated_next {R : State → State → Prop} {s t : State} (h : R s t) :
    AnswersRelated R (.next s) (.next t) := by
  intro s' hs
  cases hs
  exact ⟨t, rfl, h⟩

theorem AnswersRelated_fault (R : State → State → Prop) (f : Fault) (o : Answer) :
    AnswersRelated R (.fault f) o := nofun

theorem AnswersRelated_andThen {R : State → State → Prop} {o o' : Answer} {k k' : State → Answer}
    (h : AnswersRelated R o o') (hk : ∀ s t, R s t → AnswersRelated R (k s) (k' t)) :
    AnswersRelated R (andThen o k) (andThen o' k') := by
  intro s' hs
  obtain ⟨u, hu, hs⟩ := (andThen_eq_next _ _ _).mp hs
  obtain ⟨v, rfl, huv⟩ := h u hu
  exact hk u v huv s' hs

/-- A relation of states that the decoder's operations keep, and under which they see the same registers and the same
accumulated octets. -/
structure DecoderSimulation (R : State → State → Prop) : Prop where
  capacity : ∀ s t, R s t → t.capacity = s.capacity
  escapePending : ∀ s t, R s t → t.escapePending = s.escapePending
  writeOffset : ∀ s t, R s t → t.writeOffset = s.writeOffset
  runningCrc : ∀ s t, R s t → t.runningCrc = s.runningCrc
  accumulated : ∀ s t, R s t → ∀ i, i < s.writeOffset → memRead t i = memRead s i
  keeps_flag : ∀ s t, R s t → ∀ e, R { s with escapePending := e } { t with escapePending := e }
  keeps_discard : ∀ s t, R s t → R (discardAndReset s) (discardAndReset t)
  keeps_store : ∀ s t, R s t → ∀ v, R (afterStore v s) (afterStore v t)
  keeps_deliver : ∀ s t, R s t → ∀ p, AnswersRelated R (deliver p s) (deliver p t)

section
variable {R : State → State → Prop} (hR : DecoderSimulation R) {s t : State} (h : R s t)
include hR h

theorem accumulate_related (v : Byte) : AnswersRelated R (accumulate v s) (accumulate v t) := by
  intro s' hs
  obtain ⟨hw, rfl⟩ := accumulate_cases v s s' hs
  have hw' : t.writeOffset < t.bufBytes := by
    rw [State.bufBytes, hR.writeOffset s t h, hR.capacity s t h]
    exact hw
  exact ⟨_, accumulate_eq v t hw', hR.keeps_store s t h v⟩

theorem receivedCrc_related (h2 : 2 ≤ s.writeOffset) : receivedCrc t = receivedCrc s := by
  unfold receivedCrc
  rw [hR.writeOffset s t h, hR.accumulated s t h _ (by omega), hR.accumulated s t h _ (by omega)]

theorem closeFrame_related : AnswersRelated R (closeFrame s) (closeFrame t) := by
  have hreset := AnswersRelated_next (hR.keeps_discard s t h)
  unfold closeFrame State.bufBytes
  rw [hR.writeOffset s t h, hR.capacity s t h, hR.runningCrc s t h,
    payloadSpan_congr (hR.writeOffset s t h) (hR.accumulated s t h)]
  split
  · rename_i h2
    rw [receivedCrc_related hR h h2]
    split
    · split
      · exact AnswersRelated_andThen (hR.keeps_deliver s t h _)
          fun u v huv => AnswersRelated_next (hR.keeps_discard u v huv)
      · exact hreset
    · exact AnswersRelated_fault R _ _
  · exact hreset

theorem receiveOctet_related (b : Byte) : AnswersRelated R (receiveOctet b s) (receiveOctet b t) := by
  have hclear : R (clearEscape s) (clearEscape t) := hR.keeps_flag s t h false
  unfold receiveOctet
  rw [hR.escapePending s t h]
  split
  · split
    · exact AnswersRelated_next (hR.keeps_discard _ _ hclear)
    · exact closeFrame_related hR h
  · split
    · exact AnswersRelated_next (hR.keeps_flag s t h true)
    · split
      · exact accumulate_related hR hclear _
      · exact accumulate_related hR h b

end

theorem receiveOctets_related {R : State → State → Prop} (hR : DecoderSimulation R) (octets : List Byte)
    {s t : State} (h : R s t) : AnswersRelated R (receiveOctets octets s) (receiveOctets octets t) := by
  induction octets generalizing s t with
  | nil => exact AnswersRelated_next h
  | cons b rest ih => exact AnswersRelated_andThen (receiveOctet_related hR h b) fun u v huv => ih huv

/-! ### Unwritten octets -/

/-- The same state with other octets in the buffer and another draw behind them. -/
def State.redrawn (s : State) (m : Memory) (n : Nat) : State := { s with buffer := m, initCount := n }

theorem AgreeButUnwritten_iff (s t : State) :
    AgreeButUnwritten s t ↔
      ∃ m n, t = s.redrawn m n ∧ ∀ i, i < s.writeOffset → memRead (s.redrawn m n) i = memRead s i := by
  constructor
  · rintro ⟨hrest, hacc⟩
    refine ⟨t.buffer, t.initCount, hrest, ?_⟩
    rw [State.redrawn, ← hrest]
    exact hacc
  · rintro ⟨m, n, rfl, hacc⟩
    exact ⟨rfl, hacc⟩

theorem AgreeButUnwritten_store (s t : State) (h : AgreeButUnwritten s t) (v : Byte) :
    AgreeButUnwritten (afterStore v s) (afterStore v t) := by
  obtain ⟨m, n, rfl, hacc⟩ := (AgreeButUnwritten_iff s t).mp h
  by_cases hr : s.writeOffset + 1 = s.capacity
  · rw [afterStore_of_full v s hr, afterStore_of_full v (s.redrawn m n) hr]
    exact ⟨rfl, fun i hi => absurd hi (Nat.not_lt_zero i)⟩
  · have hcrc : (if 2 ≤ s.writeOffset then
          crcStep s.runningCrc (memRead (s.redrawn m n) (s.writeOffset - 2)) else s.runningCrc) =
        if 2 ≤ s.writeOffset then crcStep s.runningCrc (memRead s (s.writeOffset - 2)) else s.runningCrc := by
      split
      · rw [hacc _ (by omega)]
      · rfl
    rw [afterStore_of_room v s hr, afterStore_of_room v (s.redrawn m n) hr, ← hcrc]
    refine ⟨rfl, fun i hi => ?_⟩
    show memRead (storeOctet v (s.redrawn m n)) i = memRead (storeOctet v s) i
    by_cases he : i = s.writeOffset
    · rw [he, memRead_storeOctet_same v s]
      exact memRead_storeOctet_same v (s.redrawn m n)
    · rw [memRead_storeOctet_other v s i he, memRead_storeOctet_other v (s.redrawn m n) i he]
      exact hacc i (Nat.lt_of_le_of_ne (Nat.le_of_lt_succ hi) he)

theorem AgreeButUnwritten_deliver (s t : State) (h : AgreeButUnwritten s t) (p : List Byte) :
    AnswersRelated AgreeButUnwritten (deliver p s) (deliver p t) := by
  obtain ⟨m, n, rfl, hacc⟩ := (AgreeButUnwritten_iff s t).mp h
  intro s' hs
  rcases deliver_cases p s s' hs with ⟨hc, rfl⟩ | ⟨hc, msgs, hm, rfl⟩
  · exact ⟨_, deliver_of_absent p _ hc, h⟩
  · exact ⟨_, deliver_sends p (s.redrawn m n) msgs hc hm, rfl, hacc⟩

/-- The decoder reads no octet that nothing has stored since its offset was last reset. -/
theorem agreeButUnwritten_simulation : DecoderSimulation AgreeButUnwritten where
  capacity _ _ h := by rw [h.rest]
  escapePending _ _ h := by rw [h.rest]
  writeOffset _ _ h := by rw [h.rest]
  runningCrc _ _ h := by rw [h.rest]
  accumulated _ _ h := h.accumulated
  keeps_flag s t h e := by
    obtain ⟨m, n, rfl, hacc⟩ := (AgreeButUnwritten_iff s t).mp h
    exact ⟨rfl, hacc⟩
  keeps_discard s t h := by
    obtain ⟨m, n, rfl, -⟩ := (AgreeButUnwritten_iff s t).mp h
    exact ⟨rfl, fun i hi => absurd hi (Nat.not_lt_zero i)⟩
  keeps_store := AgreeButUnwritten_store
  keeps_deliver := AgreeButUnwritten_deliver

/-- Settles O43: agreement below the offset is a simulation of the decoder, and it fixes the trace. -/
theorem unwrittenOctetsNeverReachTheTrace : Obligations.UnwrittenOctetsNeverReachTheTrace := by
  intro s t s' octets h hs
  obtain ⟨hu, hs⟩ := inSession_cases (receiveOctets octets) s s' hs
  obtain ⟨m, n, rfl, hacc⟩ := (AgreeButUnwritten_iff s t).mp h
  have hstart : AgreeButUnwritten (clearReturned s) (clearReturned (s.redrawn m n)) := ⟨rfl, hacc⟩
  obtain ⟨t', ht, hst⟩ := receiveOctets_related agreeButUnwritten_simulation octets hstart s' hs
  refine ⟨t', ?_, by rw [hst.rest], hst⟩
  exact (inSession_of_usable (receiveOctets octets) (s.redrawn m n) hu).trans ht

/-! ### Sending beside reception -/

/-- Two states alike but for what their traces held before the same new events. -/
def SameButTrace (pre pre' : List Event) (s t : State) : Prop :=
  ∃ new, s.trace = pre ++ new ∧ t = { s with trace := pre' ++ new }

theorem afterStore_withTrace (v : Byte) (s : State) (es : List Event) :
    afterStore v { s with trace := es } = { afterStore v s with trace := es } := by
  unfold afterStore
  split <;> rfl

theorem SameButTrace_deliver (pre pre' : List Event) (s t : State) (h : SameButTrace pre pre' s t) (p : List Byte) :
    AnswersRelated (SameButTrace pre pre') (deliver p s) (deliver p t) := by
  obtain ⟨new, hs, rfl⟩ := h
  intro s' hd
  rcases deliver_cases p s s' hd with ⟨hc, rfl⟩ | ⟨hc, msgs, hm, rfl⟩
  · exact ⟨_, deliver_of_absent p _ hc, new, hs, rfl⟩
  · refine ⟨_, deliver_sends p { s with trace := pre' ++ new } msgs hc hm,
      new ++ Event.deliver s.userCtx p :: msgs.flatMap (sendEvents s), ?_, ?_⟩
    · simp only [hs, List.append_assoc]
    · simp only [List.append_assoc]
      rfl

/-- The decoder reads nothing of the trace. -/
theorem sameButTrace_simulation (pre pre' : List Event) : DecoderSimulation (SameButTrace pre pre') where
  capacity := by rintro s t ⟨new, hs, rfl⟩; rfl
  escapePending := by rintro s t ⟨new, hs, rfl⟩; rfl
  writeOffset := by rintro s t ⟨new, hs, rfl⟩; rfl
  runningCrc := by rintro s t ⟨new, hs, rfl⟩; rfl
  accumulated := by rintro s t ⟨new, hs, rfl⟩ i -; rfl
  keeps_flag := by rintro s t ⟨new, hs, rfl⟩ e; exact ⟨new, hs, rfl⟩
  keeps_discard := by rintro s t ⟨new, hs, rfl⟩; exact ⟨new, hs, rfl⟩
  keeps_store := by
    rintro s t ⟨new, hs, rfl⟩ v
    exact ⟨new, by rw [afterStore_trace, hs], afterStore_withTrace v s _⟩
  keeps_deliver := SameButTrace_deliver pre pre'

theorem sendEvents_congr {s t : State} (h : SameConfiguration s t) (msg : List Byte) :
    sendEvents t msg = sendEvents s msg := by
  simp [sendEvents, emitEvents, flushEvents, h.capOutput, h.capFlush, h.userCtx]

theorem exec_send_cases (msg : List Byte) (s t : State) (h : exec (.send msg) s = .next t) :
    s.usable = true ∧ t = { s with returned := none, trace := s.trace ++ sendEvents s msg } := by
  obtain ⟨hu, h⟩ := inSession_cases (fun u => .next (sendMessage msg u)) s t h
  rw [sendMessage_eq] at h
  cases h
  exact ⟨hu, rfl⟩

/-- A delivery capability that makes no call emits nothing. -/
theorem deliver_emissions_of_no_call (p : List Byte) (s t : State) (hp : s.deliverPlan.headD [] = [])
    (h : deliver p s = .next t) : emissions t.trace = emissions s.trace := by
  rcases deliver_cases p s t h with ⟨-, rfl⟩ | ⟨-, msgs, hm, rfl⟩
  · rfl
  · obtain rfl : msgs = [] := List.map_eq_nil_iff.mp (hm.symm.trans hp)
    simp [emissions_deliver_cons, show emissions [] = [] from rfl]

/-- A received octet emits nothing of its own. -/
theorem receiveOctet_emissions_of_no_call (b : Byte) (s t : State) (hp : s.deliverPlan.headD [] = [])
    (h : receiveOctet b s = .next t) : emissions t.trace = emissions s.trace := by
  rcases receiveOctet_cases b s t h with ⟨-, -, rfl⟩ | ⟨-, -, hc⟩ | ⟨-, -, rfl⟩ | ⟨-, -, -, -, rfl⟩ | ⟨-, -, -, rfl⟩
  · rfl
  · rcases closeFrame_cases s t hc with ⟨-, -, u, hu, rfl⟩ | ⟨-, rfl⟩
    · exact deliver_emissions_of_no_call _ s u hp hu
    · rfl
  · rfl
  · rw [afterStore_trace]
  · rw [afterStore_trace, clearEscape_trace]

/-- The two orders end alike but for the order of their events: `SEND`'s stand before or after those of the received octet. -/
theorem send_rxByte_orders {s t₁ t₂ : State} {msg : List Byte} {b : Byte}
    (h₁ : andThen (exec (.send msg) s) (exec (.rxByte b)) = .next t₁)
    (h₂ : andThen (exec (.rxByte b) s) (exec (.send msg)) = .next t₂) :
    ∃ u new, receiveOctet b (clearReturned s) = .next u ∧ u.trace = s.trace ++ new ∧
      t₁ = { u with trace := s.trace ++ sendEvents s msg ++ new } ∧
      t₂ = { u with returned := none, trace := s.trace ++ new ++ sendEvents s msg } := by
  obtain ⟨a, ha, h₁⟩ := (andThen_eq_next _ _ _).mp h₁
  obtain ⟨u, hu, h₂⟩ := (andThen_eq_next _ _ _).mp h₂
  obtain ⟨-, rfl⟩ := exec_send_cases msg s a ha
  obtain ⟨-, h₁⟩ := exec_rxByte_cases b _ t₁ h₁
  obtain ⟨-, hu⟩ := exec_rxByte_cases b s u hu
  obtain ⟨-, rfl⟩ := exec_send_cases msg u t₂ h₂
  have hstart : SameButTrace s.trace (s.trace ++ sendEvents s msg) (clearReturned s)
      (clearReturned { s with returned := none, trace := s.trace ++ sendEvents s msg }) :=
    ⟨[], by simp, by simp [clearReturned]⟩
  obtain ⟨t, ht, new, hnew, rfl⟩ := receiveOctet_related (sameButTrace_simulation _ _) hstart b u hu
  have hsame : SameConfiguration (clearReturned s) u := Moves_sameConfiguration (receiveOctet_moves b _ u hu)
  have hsend : sendEvents u msg = sendEvents s msg := sendEvents_congr hsame msg
  rw [h₁] at ht
  cases ht
  exact ⟨u, new, hu, hnew, rfl, by rw [hsend, hnew]⟩

/-- Settles O16: the decoder reads nothing of the trace, and `SEND`'s events deliver nothing. -/
theorem sendDoesNotDisturbReception : Obligations.SendDoesNotDisturbReception := by
  intro s t₁ t₂ msg b h₁ h₂
  obtain ⟨u, new, hu, hnew, rfl, rfl⟩ := send_rxByte_orders h₁ h₂
  refine ⟨⟨rfl, rfl, rfl, fun _ => rfl⟩, ⟨rfl, rfl, rfl, rfl, rfl, rfl, rfl⟩, ⟨rfl, rfl⟩, ⟨rfl, rfl⟩, ?_, ?_, ?_⟩
  · simp [deliveries_sendEvents]
  · simp only [emissions_append, List.append_assoc]
    exact List.perm_append_comm.append_left _
  · intro hp
    have hquiet : emissions new = [] := by
      simpa [hnew] using receiveOctet_emissions_of_no_call b (clearReturned s) u hp hu
    simp [hquiet]

end Sys2Proof.Machine
end

section
/-! SUPPORT. The statements of 20_memory.md: one input per step and a trace that only grows, the guard octet, and the fault of
an index outside the buffer. -/

namespace Sys2Proof.Machine

/-! ### The inputs and the trace -/

/-- A step that answers next holds a state without inputs, or runs one instruction on the rest of the inputs. -/
theorem step_takes_head (s t : State) (h : step s = .next t) :
    (s.inputs = [] ∧ t = s) ∨ ∃ i, exec i (takeInput s.inputs.tail s) = .next t := by
  unfold step at h
  split at h <;> rename_i hin
  · exact .inl ⟨hin, by simpa using h.symm⟩
  all_goals rw [hin, List.tail_cons]
  · exact .inr ⟨_, h⟩
  all_goals
    obtain ⟨i, -, hi⟩ := runWord_cases _ _ _ h
    exact .inr ⟨i, hi⟩

/-- The inputs are as before, and the trace is only appended to. -/
structure AppendsOnly (s t : State) : Prop where
  inputs : t.inputs = s.inputs
  trace : ∃ new, t.trace = s.trace ++ new

theorem AppendsOnly_of_eq {s t : State} (hi : t.inputs = s.inputs) (ht : t.trace = s.trace) : AppendsOnly s t :=
  ⟨hi, [], by rw [ht, List.append_nil]⟩

theorem AppendsOnly_trans {s t u : State} (h : AppendsOnly s t) (k : AppendsOnly t u) : AppendsOnly s u := by
  obtain ⟨hin, new, hnew⟩ := h
  obtain ⟨kin, more, kmore⟩ := k
  exact ⟨kin.trans hin, new ++ more, by rw [kmore, hnew, List.append_assoc]⟩

@[simp] theorem afterStore_inputs (v : Byte) (s : State) : (afterStore v s).inputs = s.inputs := by
  obtain ⟨w, c, h⟩ := afterStore_eq_update v s
  rw [h]
  rfl

theorem Move_appendsOnly {s t : State} (m : Move s t) : AppendsOnly s t := by
  cases m with
  | raises es => exact ⟨rfl, es, rfl⟩
  | stores v _ => exact AppendsOnly_of_eq (afterStore_inputs v s) (afterStore_trace v s)
  | returns | encodes | flags | discards | consumes => exact AppendsOnly_of_eq rfl rfl

theorem execInit_appendsOnly (a : InitArgs) {s t : State} (h : execInit a s = .next t) : AppendsOnly s t := by
  rcases execInit_cases a s t h with ⟨-, rfl⟩ | rfl <;> exact AppendsOnly_of_eq rfl rfl

theorem exec_appendsOnly (i : Instr) {s t : State} (h : exec i s = .next t) : AppendsOnly s t := by
  by_cases hi : ∃ a, i = .init a
  · obtain ⟨a, rfl⟩ := hi
    exact execInit_appendsOnly a h
  · exact Moves_keep (P := AppendsOnly s) (fun _ _ m hs => AppendsOnly_trans hs (Move_appendsOnly m))
      (exec_moves i (fun a ha => hi ⟨a, ha⟩) s t h) (AppendsOnly_of_eq rfl rfl)

/-- Settles O54: the step takes the first input, and the instruction it runs leaves the inputs alone and only appends to the
trace. -/
theorem stepTakesOneInputAndAppendsToTheTrace : Obligations.StepTakesOneInputAndAppendsToTheTrace := by
  intro s t h
  rcases step_takes_head s t h with ⟨hin, rfl⟩ | ⟨i, hi⟩
  · exact ⟨by rw [hin, List.tail_nil], [], (List.append_nil _).symm⟩
  · obtain ⟨hin, hnew⟩ := exec_appendsOnly i hi
    exact ⟨hin, hnew⟩

/-! ### The guard octet -/

theorem memRead_afterStore_other (v : Byte) (s : State) (a : Nat) (h : a ≠ s.writeOffset) :
    memRead (afterStore v s) a = memRead s a := by
  obtain ⟨w, c, hs⟩ := afterStore_eq_update v s
  rw [hs]
  exact memRead_storeOctet_other v s a h

/-- Under the invariant a move stores below `capacity` only (R18, R31). -/
theorem Move_memRead_above {s t : State} (m : Move s t) (h : s.Inv) (j : Nat) (hj : s.capacity ≤ j) :
    memRead t j = memRead s j := by
  cases m with
  | stores v _ => exact memRead_afterStore_other v s j (Nat.ne_of_gt (Nat.lt_of_lt_of_le h.offset_lt hj))
  | returns | raises | encodes | flags | discards | consumes => rfl

theorem Moves_memRead_above {s t : State} (m : Moves s t) (h : s.Inv) (j : Nat) (hj : s.capacity ≤ j) :
    memRead t j = memRead s j := by
  induction m with
  | none => rfl
  | more hm m ih =>
    have hinv := Moves_keep (fun _ _ m => Move_inv m) hm h
    have hcap := (Moves_sameConfiguration hm).capacity
    exact (Move_memRead_above m hinv j (hcap ▸ hj)).trans ih

/-- Settles O57: every instruction but `INIT` is a sequence of moves, each of which starts under the invariant and so stores
below `capacity`. -/
theorem guardOctetIsNeverWritten : Obligations.GuardOctetIsNeverWritten :=
  fun s t i hs hi h => Moves_memRead_above (exec_moves i hi s t h) hs

/-! ### An index outside the buffer -/

theorem accumulate_of_outside (v : Byte) (s : State) (h : s.bufBytes ≤ s.writeOffset) :
    accumulate v s = .fault .indexOutsideBuffer := if_neg (Nat.not_lt.mpr h)

theorem closeFrame_of_outside (s : State) (h2 : 2 ≤ s.writeOffset) (h : s.bufBytes < s.writeOffset) :
    closeFrame s = .fault .indexOutsideBuffer := by
  rw [closeFrame, if_pos h2, if_neg (Nat.not_le.mpr h)]

theorem rxClass_data (b : Byte) (hf : b ≠ Config.FLAG) (he : b ≠ Config.ESC) : rxClass false b = .rxData b := by
  simp [rxClass, hf, he]

theorem rxClass_escaped (b : Byte) (hf : b ≠ Config.FLAG) : rxClass true b = .rxDataEscaped b := by
  simp [rxClass, hf]

/-- A received-octet class on a usable session, where its octet classifies to it, runs its body. -/
theorem inSession_inRxClass (i : Instr) (b : Byte) (k : State → Answer) (s : State) (hu : s.usable = true)
    (hc : rxClass s.escapePending b = i) : inSession (inRxClass i b k) s = k (clearReturned s) :=
  (inSession_of_usable _ s hu).trans (inRxClass_of_class i b k (clearReturned s) hc)

/-- Settles O20: in its class each row comes to a store, or to the reading of the CRC field, outside the buffer. -/
theorem indexOutsideTheBufferFaults : Obligations.IndexOutsideTheBufferFaults := by
  intro s b hu hf
  refine ⟨fun hw he hb => ?_, fun hw he => ?_, fun hw h2 he => ?_⟩
  · have hc : rxClass s.escapePending b = .rxData b := by rw [he, rxClass_data b hf hb]
    exact (inSession_inRxClass _ b _ s hu hc).trans (accumulate_of_outside b (clearReturned s) hw)
  · have hc : rxClass s.escapePending b = .rxDataEscaped b := by rw [he, rxClass_escaped b hf]
    exact (inSession_inRxClass _ b _ s hu hc).trans
      (accumulate_of_outside _ (clearEscape (clearReturned s)) hw)
  · have hc : rxClass s.escapePending Config.FLAG = .rxFlagClose := by rw [he]; rfl
    exact (inSession_inRxClass _ _ _ s hu hc).trans (closeFrame_of_outside (clearReturned s) h2 hw)

end Sys2Proof.Machine
end

section
/-! SUPPORT. The statements of 30_encoding.md: the two maps and their words, the step that runs a decoded word, the classes of
a transmitted octet, the shape of a wire frame, and the bound on what a frame can deliver. -/

namespace Sys2Proof

/-! ### The received-octet map and the transmitted-octet map -/

theorem rxWord_and (e f : Bool) (b m : Byte) : rxWord e b &&& rxWord f m = rxWord (e && f) (b &&& m) := by
  cases e <;> cases f <;> exact BitVec.and_append

theorem rxWord_inj (e f : Bool) (b c : Byte) : rxWord e b = rxWord f c ↔ e = f ∧ b = c := by
  constructor
  · intro h
    have hmode := congrArg BitVec.msb h
    have hoctet := congrArg (BitVec.setWidth 8) h
    simp only [rxWord, BitVec.msb_append, BitVec.setWidth_append] at hmode hoctet
    exact ⟨by simpa using hmode, by simpa using hoctet⟩
  · rintro ⟨rfl, rfl⟩
    rfl

/-- The rows of R47 with each mask and pattern split into the mode bit and the octet. -/
theorem rxRows_eq : rxRows =
    [ ⟨rxWord true 0xFF#8, rxWord true Config.FLAG, fun _ => .rxFlagAbort⟩,
      ⟨rxWord true 0xFF#8, rxWord false Config.FLAG, fun _ => .rxFlagClose⟩,
      ⟨rxWord true 0xFF#8, rxWord false Config.ESC, fun _ => .rxEsc⟩,
      ⟨rxWord true 0#8, rxWord false 0#8, fun b => .rxData b⟩,
      ⟨rxWord true 0#8, rxWord true 0#8, fun b => .rxDataEscaped b⟩ ] := rfl

theorem octet_and_ones (b : Byte) : b &&& 0xFF#8 = b := BitVec.and_allOnes

theorem lookupRow_rxRows (e : Bool) (b : Byte) : lookupRow (rxWord e b) b rxRows = .ok (rxClass e b) := by
  rw [rxRows_eq]
  simp only [lookupRow, rxWord_and, rxWord_inj, octet_and_ones, BitVec.and_zero, Bool.and_true, and_true, rxClass]
  cases e
  · by_cases hf : b = Config.FLAG
    · simp [hf]
    · by_cases he : b = Config.ESC <;> simp [hf, he]
  · by_cases hf : b = Config.FLAG <;> simp [hf]

theorem decode_rxWordBytes (e : Bool) (b : Byte) : decode (rxWordBytes e b) = .ok (rxClass e b) := by
  cases e <;> exact lookupRow_rxRows _ b

/-- Settles O17: a mask selects the whole word or the mode bit alone, so the rows of the map are the tests. -/
theorem receivedMapAgreesWithPriorityTests : Obligations.ReceivedMapAgreesWithPriorityTests :=
  decode_rxWordBytes

theorem decode_txOctet (b : Byte) : decode [b] = .ok (txClass b) := by
  simp only [decode, txRows, lookupRow, octet_and_ones, BitVec.and_zero, if_true, txClass]
  split
  · rfl
  · split <;> rfl

/-- The bytes are a word that the maps classify to `i`: one transmitted octet (R52), or a received octet under a mode bit
(R47). -/
def IsWordOf (bytes : List Byte) (i : Instr) : Prop :=
  (∃ b, bytes = [b] ∧ txClass b = i) ∨ ∃ e b, bytes = rxWordBytes e b ∧ rxClass e b = i

/-- What decodes is exactly the words of the maps. -/
theorem decode_eq_ok_iff (bytes : List Byte) (i : Instr) : decode bytes = .ok i ↔ IsWordOf bytes i := by
  constructor
  · intro h
    match bytes, h with
    | [b], h =>
      rw [decode_txOctet] at h
      exact .inl ⟨b, rfl, Except.ok.inj h⟩
    | [b, hi], h =>
      by_cases h0 : hi = 0#8
      · subst h0
        exact .inr ⟨false, b, rfl, Except.ok.inj ((decode_rxWordBytes false b).symm.trans h)⟩
      · by_cases h1 : hi = 1#8
        · subst h1
          exact .inr ⟨true, b, rfl, Except.ok.inj ((decode_rxWordBytes true b).symm.trans h)⟩
        · simp [decode, h0, h1] at h
  · rintro (⟨b, rfl, rfl⟩ | ⟨e, b, rfl, rfl⟩)
    · exact decode_txOctet b
    · exact decode_rxWordBytes e b

/-! ### Encoding -/

/-- The class of a received octet is well formed and encodes to that octet under the mode bit. -/
theorem rxClass_encodes (e : Bool) (b : Byte) :
    (rxClass e b).wellFormed = true ∧ encode (rxClass e b) = some (rxWordBytes e b) := by
  by_cases hf : b = Config.FLAG
  · subst hf
    cases e <;> exact ⟨rfl, rfl⟩
  · cases e
    · by_cases he : b = Config.ESC
      · subst he
        exact ⟨rfl, rfl⟩
      · rw [Machine.rxClass_data b hf he]
        exact ⟨by simp [Instr.wellFormed, hf, he], rfl⟩
    · rw [Machine.rxClass_escaped b hf]
      exact ⟨by simp [Instr.wellFormed, hf], rfl⟩

theorem txClass_literal (b : Byte) (hf : b ≠ Config.FLAG) (he : b ≠ Config.ESC) : txClass b = .txLiteral b := by
  simp [txClass, hf, he]

/-- The class of a transmitted octet is well formed and encodes to that octet. -/
theorem txClass_encodes (b : Byte) : (txClass b).wellFormed = true ∧ encode (txClass b) = some [b] := by
  by_cases hf : b = Config.FLAG
  · subst hf
    exact ⟨rfl, rfl⟩
  · by_cases he : b = Config.ESC
    · subst he
      exact ⟨rfl, rfl⟩
    · rw [txClass_literal b hf he]
      exact ⟨by simp [Instr.wellFormed, hf, he], rfl⟩

/-- The bytes of a well-formed class row are a word that the maps classify to the row. -/
theorem isWordOf_of_encode {i : Instr} {bytes : List Byte} (hw : i.wellFormed = true)
    (h : encode i = some bytes) : IsWordOf bytes i := by
  cases i with
  | rxFlagAbort => exact .inr ⟨true, Config.FLAG, (Option.some.inj h).symm, rfl⟩
  | rxFlagClose => exact .inr ⟨false, Config.FLAG, (Option.some.inj h).symm, rfl⟩
  | rxEsc => exact .inr ⟨false, Config.ESC, (Option.some.inj h).symm, rfl⟩
  | rxData b =>
    obtain ⟨hf, he⟩ : b ≠ Config.FLAG ∧ b ≠ Config.ESC := by simpa [Instr.wellFormed] using hw
    exact .inr ⟨false, b, (Option.some.inj h).symm, Machine.rxClass_data b hf he⟩
  | rxDataEscaped b =>
    have hf : b ≠ Config.FLAG := by simpa [Instr.wellFormed] using hw
    exact .inr ⟨true, b, (Option.some.inj h).symm, Machine.rxClass_escaped b hf⟩
  | txEscaped7E => exact .inl ⟨Config.FLAG, (Option.some.inj h).symm, rfl⟩
  | txEscaped7D => exact .inl ⟨Config.ESC, (Option.some.inj h).symm, rfl⟩
  | txLiteral b =>
    obtain ⟨hf, he⟩ : b ≠ Config.FLAG ∧ b ≠ Config.ESC := by simpa [Instr.wellFormed] using hw
    exact .inl ⟨b, (Option.some.inj h).symm, txClass_literal b hf he⟩
  | init | crcStep | send | rxByte | rxBuf | txFlag | txPut | txPayload | txCrc | txFlush => cases h

/-- The well-formed instructions with an encoding, and their bytes, are exactly the words of the maps. -/
theorem encode_eq_some_iff (i : Instr) (bytes : List Byte) :
    i.wellFormed = true ∧ encode i = some bytes ↔ IsWordOf bytes i := by
  constructor
  · rintro ⟨hw, h⟩
    exact isWordOf_of_encode hw h
  · rintro (⟨b, rfl, rfl⟩ | ⟨e, b, rfl, rfl⟩)
    · exact txClass_encodes b
    · exact rxClass_encodes e b

/-- Settles O58: the decoder and the encoder relate the same bytes and instructions, the words of the two maps. -/
theorem decodeAndEncodeAgree : Obligations.DecodeAndEncodeAgree :=
  ⟨fun i bytes hw h => (decode_eq_ok_iff bytes i).mpr ((encode_eq_some_iff i bytes).mp ⟨hw, h⟩),
    fun i bytes h => (encode_eq_some_iff i bytes).mpr ((decode_eq_ok_iff bytes i).mp h)⟩

/-! ### Words of the opcode table -/

theorem tableWordBytes_cases {nbits w : Nat} {bytes : List Byte} (h : tableWordBytes nbits w = some bytes) :
    (nbits ≤ 8 ∧ bytes = [BitVec.ofNat 8 w]) ∨
    (8 < nbits ∧ w < 65536 ∧ bytes = [BitVec.ofNat 8 w, BitVec.ofNat 8 (w / 256)]) := by
  unfold tableWordBytes at h
  split at h
  · cases h
  · split at h <;> split at h
    · exact .inl ⟨‹_›, (Option.some.inj h).symm⟩
    · cases h
    · exact .inr ⟨Nat.lt_of_not_le ‹_›, ‹_›, (Option.some.inj h).symm⟩
    · cases h

theorem decodeTableWord_cases {nbits w : Nat} {i : Instr} (h : decodeTableWord nbits w = some i) :
    ∃ bytes, tableWordBytes nbits w = some bytes ∧ decode bytes = .ok i := by
  unfold decodeTableWord at h
  split at h
  · cases h
  · split at h
    · cases h
      exact ⟨_, ‹_›, ‹_›⟩
    · cases h

/-- A received word of the table that decodes has its mode bit in bit 8 and nothing above it. -/
theorem rxTableWord_class {w : Nat} {i : Instr} (hw : w < 65536)
    (h : decode [BitVec.ofNat 8 w, BitVec.ofNat 8 (w / 256)] = .ok i) :
    rxClass (Nat.testBit w 8) (BitVec.ofNat 8 w) = i := by
  rcases (decode_eq_ok_iff _ i).mp h with ⟨b, hb, -⟩ | ⟨e, b, hb, hi⟩
  · cases hb
  · obtain ⟨rfl, hmode⟩ : BitVec.ofNat 8 w = b ∧ BitVec.ofNat 8 (w / 256) = if e then 1#8 else 0#8 := by
      simpa [rxWordBytes] using hb
    have he : Nat.testBit w 8 = e := by
      have hdiv : w / 256 = if e then 1 else 0 := by
        have htoNat := congrArg BitVec.toNat hmode
        rw [BitVec.toNat_ofNat, Nat.mod_eq_of_lt (Nat.div_lt_of_lt_mul hw)] at htoNat
        cases e <;> exact htoNat
      rw [Nat.testBit_eq_decide_div_mod_eq, hdiv]
      cases e <;> rfl
    rw [he, hi]

/-- Settles O59, by running the decoder on each word. -/
theorem wordsOfTheMapsDecodeAsWritten : Obligations.WordsOfTheMapsDecodeAsWritten := by
  unfold Obligations.WordsOfTheMapsDecodeAsWritten
  decide

end Sys2Proof

namespace Sys2Proof.Machine

/-! ### The class rows as instructions -/

/-- Two operations of the session agree in a state when their bodies agree on it once it is entered. -/
theorem inSession_congr {k l : State → Answer} {s : State} (h : k (clearReturned s) = l (clearReturned s)) :
    inSession k s = inSession l s := by
  unfold inSession
  rw [h]

theorem receiveOctet_data (b : Byte) (s : State) (hf : b ≠ Config.FLAG) (he : b ≠ Config.ESC)
    (hs : s.escapePending = false) : receiveOctet b s = accumulate b s := by
  simp [receiveOctet, hf, he, hs]

theorem receiveOctet_escaped (b : Byte) (s : State) (hf : b ≠ Config.FLAG) (hs : s.escapePending = true) :
    receiveOctet b s = accumulate (invertBit5 b) (clearEscape s) := by
  simp [receiveOctet, hf, hs]

theorem receiveOctet_flag (s : State) :
    receiveOctet Config.FLAG s = if s.escapePending then .next (abortFrame s) else closeFrame s := if_pos rfl

theorem receiveOctet_esc (s : State) (hs : s.escapePending = false) :
    receiveOctet Config.ESC s = .next (setEscape s) := by
  simp [receiveOctet, hs]

/-- An operation whose body is that of a received-octet class where its octet is in the class. -/
theorem inSession_eq_inRxClass {i : Instr} {b : Byte} {k l : State → Answer} {s : State}
    (hc : rxClass s.escapePending b = i) (h : l (clearReturned s) = k (clearReturned s)) :
    inSession l s = inSession (inRxClass i b k) s :=
  inSession_congr (h.trans (inRxClass_of_class i b k (clearReturned s) hc).symm)

/-- An operation whose body is that of a transmitted-octet class where its octet is in the class. -/
theorem inSession_eq_inTxClass {i : Instr} {b : Byte} {k l : State → Answer} {s : State}
    (hc : txClass b = i) (h : l (clearReturned s) = k (clearReturned s)) :
    inSession l s = inSession (inTxClass i b k) s :=
  inSession_congr (h.trans (inTxClass_of_class i b k (clearReturned s) hc).symm)

/-- `RX_BYTE` runs the row that R47 classifies its octet to (R81). -/
theorem exec_rxByte_eq_class (b : Byte) (s : State) :
    exec (.rxByte b) s = exec (rxClass s.escapePending b) s := by
  by_cases hf : b = Config.FLAG
  · subst hf
    cases hs : s.escapePending <;>
      exact inSession_eq_inRxClass (by rw [hs]; rfl) (by simp [receiveOctet_flag, hs])
  · cases hs : s.escapePending
    · by_cases he : b = Config.ESC
      · subst he
        exact inSession_eq_inRxClass (by rw [hs]; rfl) (receiveOctet_esc _ hs)
      · have hc := rxClass_data b hf he
        rw [hc]
        exact inSession_eq_inRxClass (hs ▸ hc) (receiveOctet_data b _ hf he hs)
    · have hc := rxClass_escaped b hf
      rw [hc]
      exact inSession_eq_inRxClass (hs ▸ hc) (receiveOctet_escaped b _ hf hs)

theorem putOctet_literal (b : Byte) (s : State) (hf : b ≠ Config.FLAG) (he : b ≠ Config.ESC) :
    putOctet b s = emitOctet b s := by
  simp [putOctet, mustEscape, hf, he]

/-- `TX_PUT` runs the row that R52 classifies its octet to. -/
theorem exec_txPut_eq_class (b : Byte) (s : State) : exec (.txPut b) s = exec (txClass b) s := by
  by_cases hf : b = Config.FLAG
  · subst hf
    exact inSession_eq_inTxClass (l := fun t => .next (putOctet Config.FLAG t)) rfl rfl
  · by_cases he : b = Config.ESC
    · subst he
      exact inSession_eq_inTxClass (l := fun t => .next (putOctet Config.ESC t)) rfl rfl
    · have hc := txClass_literal b hf he
      rw [hc]
      exact inSession_eq_inTxClass (l := fun t => .next (putOctet b t)) hc
        (congrArg Host.Outcome.next (putOctet_literal b (clearReturned s) hf he))

/-- A received-octet class on a usable session is refused where its octet is not in the class. -/
theorem inSession_inRxClass_of_other {i : Instr} {b : Byte} {k : State → Answer} {s : State} (hu : s.usable = true)
    (hc : rxClass s.escapePending b ≠ i) : inSession (inRxClass i b k) s = .refused .notThisClass :=
  (inSession_of_usable _ s hu).trans (inRxClass_of_other i b k (clearReturned s) hc)

/-- A transmitted-octet class on a usable session is refused where its octet is not in the class. -/
theorem inSession_inTxClass_of_other {i : Instr} {b : Byte} {k : State → Answer} {s : State} (hu : s.usable = true)
    (hc : txClass b ≠ i) : inSession (inTxClass i b k) s = .refused .notThisClass :=
  (inSession_of_usable _ s hu).trans (inTxClass_of_other i b k (clearReturned s) hc)

theorem rxClass_eq_rxData_iff (e : Bool) (b : Byte) :
    rxClass e b = .rxData b ↔ e = false ∧ b ≠ Config.FLAG ∧ b ≠ Config.ESC := by
  constructor
  · intro hc
    obtain ⟨hw, hb⟩ := hc ▸ rxClass_encodes e b
    refine ⟨?_, by simpa [Instr.wellFormed] using hw⟩
    cases e
    · rfl
    · simp [encode, rxWordBytes] at hb
  · rintro ⟨rfl, hf, he⟩
    exact rxClass_data b hf he

theorem rxClass_eq_rxDataEscaped_iff (e : Bool) (b : Byte) :
    rxClass e b = .rxDataEscaped b ↔ e = true ∧ b ≠ Config.FLAG := by
  constructor
  · intro hc
    obtain ⟨hw, hb⟩ := hc ▸ rxClass_encodes e b
    refine ⟨?_, by simpa [Instr.wellFormed] using hw⟩
    cases e
    · simp [encode, rxWordBytes] at hb
    · rfl
  · rintro ⟨rfl, hf⟩
    exact rxClass_escaped b hf

theorem txClass_eq_txLiteral_iff (b : Byte) :
    txClass b = .txLiteral b ↔ b ≠ Config.FLAG ∧ b ≠ Config.ESC := by
  constructor
  · intro hc
    have hw := hc ▸ (txClass_encodes b).1
    simpa [Instr.wellFormed] using hw
  · rintro ⟨hf, he⟩
    exact txClass_literal b hf he

/-- Settles O19: a row is refused because the class of its octet is another. -/
theorem classRowsRunOnlyInTheirClass : Obligations.ClassRowsRunOnlyInTheirClass := by
  intro s b hu
  refine ⟨fun he => ?_, fun he => ⟨?_, ?_⟩, fun h => ?_, fun h => ?_, fun h => ?_⟩
  · exact inSession_inRxClass_of_other hu (by rw [he]; decide)
  · exact inSession_inRxClass_of_other hu (by rw [he]; decide)
  · exact inSession_inRxClass_of_other hu (by rw [he]; decide)
  · refine inSession_inRxClass_of_other hu fun hc => ?_
    obtain ⟨hs, hf, he⟩ := (rxClass_eq_rxData_iff _ b).mp hc
    simp [hs, hf, he] at h
  · refine inSession_inRxClass_of_other hu fun hc => ?_
    obtain ⟨hs, hf⟩ := (rxClass_eq_rxDataEscaped_iff _ b).mp hc
    simp [hs, hf] at h
  · refine inSession_inTxClass_of_other hu fun hc => ?_
    obtain ⟨hf, he⟩ := (txClass_eq_txLiteral_iff b).mp hc
    simp [hf, he] at h

/-- `TX_PUT` emits the octets its operand is written as on the wire (R72). -/
theorem exec_txPut (b : Byte) (s : State) (hu : s.usable = true) :
    exec (.txPut b) s = .next { s with returned := none, trace := s.trace ++ emitEvents s (escOctet b) } :=
  (inSession_of_usable (fun t => .next (putOctet b t)) s hu).trans
    (congrArg Host.Outcome.next (putOctet_eq b (clearReturned s)))

theorem escOctet_literal (b : Byte) (hf : b ≠ Config.FLAG) (he : b ≠ Config.ESC) : escOctet b = [b] := by
  simp [escOctet, mustEscape, hf, he]

/-- Settles O7: `TX_PUT` runs the row of its octet, so each row does what `TX_PUT` does with an octet of the row. -/
theorem txClassesEmitTheirOctets : Obligations.TxClassesEmitTheirOctets := by
  intro s b hu
  refine ⟨?_, ?_, fun hf he => ?_, exec_txPut_eq_class b s⟩
  · exact (exec_txPut_eq_class Config.FLAG s).symm.trans (exec_txPut Config.FLAG s hu)
  · exact (exec_txPut_eq_class Config.ESC s).symm.trans (exec_txPut Config.ESC s hu)
  · rw [← txClass_literal b hf he, ← exec_txPut_eq_class, exec_txPut b s hu, escOctet_literal b hf he]

/-! ### The step -/

theorem runWord_of_decode {bytes : List Byte} {i : Instr} (h : decode bytes = .ok i) (s : State) :
    runWord bytes s = exec i s := by
  rw [runWord, h]

theorem step_of_rxOctet {s : State} {b : Byte} {rest : List Input} (h : s.inputs = .rxOctet b :: rest) :
    step s = exec (rxClass s.escapePending b) (takeInput rest s) := by
  rw [step, h]
  exact runWord_of_decode (decode_rxWordBytes _ b) _

theorem step_of_txOctet {s : State} {b : Byte} {rest : List Input} (h : s.inputs = .txOctet b :: rest) :
    step s = exec (txClass b) (takeInput rest s) := by
  rw [step, h]
  exact runWord_of_decode (decode_txOctet b) _

/-- Settles O52: the octet's word decodes to its class, which is the row the operation on the octet runs. -/
theorem stepRunsTheDecodedInstruction : Obligations.StepRunsTheDecodedInstruction := by
  intro s i b rest
  refine ⟨fun h => ?_, fun h => ?_, fun h hd => ?_, fun h hd => ?_, fun h => ?_, fun h => ?_⟩
  · rw [step, h]
  · rw [step, h]
    rfl
  · rw [step_of_rxOctet h, Except.ok.inj ((decode_rxWordBytes _ b).symm.trans hd)]
    rfl
  · rw [step_of_txOctet h, Except.ok.inj ((decode_txOctet b).symm.trans hd)]
    rfl
  · exact (step_of_rxOctet h).trans (exec_rxByte_eq_class b (takeInput rest s)).symm
  · exact (step_of_txOctet h).trans (exec_txPut_eq_class b (takeInput rest s)).symm

/-- Settles O53: a placed word is the octet, and for a received word the mode bit, that the step decodes again. -/
theorem placedTableWordRunsNext : Obligations.PlacedTableWordRunsNext := by
  intro s nbits w i h
  obtain ⟨bytes, hb, hd⟩ := decodeTableWord_cases h
  rcases tableWordBytes_cases hb with ⟨hn, rfl⟩ | ⟨hn, hw, rfl⟩
  · have hi : txClass (BitVec.ofNat 8 w) = i := Except.ok.inj ((decode_txOctet _).symm.trans hd)
    rw [State.withFetchWord, if_pos hn, if_pos hn, step_of_txOctet rfl, hi]
    rfl
  · have hi := rxTableWord_class hw hd
    have hn : ¬ nbits ≤ 8 := Nat.not_le.mpr hn
    rw [State.withFetchWord, if_neg hn, if_neg hn, step_of_rxOctet rfl, hi]
    rfl

/-! ### The wire frame -/

theorem escOctets_append (xs ys : List Byte) : escOctets (xs ++ ys) = escOctets xs ++ escOctets ys := by
  induction xs with
  | nil => rfl
  | cons x xs ih => rw [List.cons_append, escOctets, ih, escOctets, List.append_assoc]

/-- A wire frame is the payload and its CRC field under the escaping rule, between two boundary octets (R45). -/
theorem wireFrame_eq (p : List Byte) :
    wireFrame p = Config.FLAG :: (escOctets (p ++ crcField p) ++ [Config.FLAG]) := by
  simp [wireFrame, crcField, escOctets_append, escOctets]

theorem escOctet_length (b : Byte) : (escOctet b).length = 1 + if mustEscape b then 1 else 0 := by
  unfold escOctet
  split <;> rfl

theorem escOctets_length (xs : List Byte) :
    (escOctets xs).length = xs.length + xs.countP (fun b => mustEscape b) := by
  induction xs with
  | nil => rfl
  | cons x xs ih =>
    rw [escOctets, List.length_append, escOctet_length, ih, List.length_cons, List.countP_cons]
    omega

/-- Settles O14: escaping adds one octet for each reserved octet, of which there are at most as many as octets. -/
theorem wireFrameHasTheStatedLength : Obligations.WireFrameHasTheStatedLength := by
  intro p
  have hbody : (p ++ crcField p).length = p.length + 2 := List.length_append
  have hcount : (p ++ crcField p).countP (fun b => mustEscape b) ≤ p.length + 2 := hbody ▸ List.countP_le_length
  have hframe : (wireFrame p).length = p.length + 4 + (p ++ crcField p).countP (fun b => mustEscape b) := by
    rw [wireFrame_eq, List.length_cons, List.length_append, escOctets_length, hbody, List.length_singleton]
    omega
  exact ⟨hframe, by omega, by omega⟩

/-- Every escape octet is followed by one of the two octets a reserved octet is inverted to. -/
def EscapesArePairs (xs : List Byte) : Prop :=
  ∀ pre post, xs = pre ++ Config.ESC :: post → ∃ x rest, post = x :: rest ∧ (x = 0x5E#8 ∨ x = 0x5D#8)

theorem EscapesArePairs_nil : EscapesArePairs [] := by
  intro pre post h
  simp at h

theorem EscapesArePairs_cons {b : Byte} {xs : List Byte} (hb : b ≠ Config.ESC) (h : EscapesArePairs xs) :
    EscapesArePairs (b :: xs) := by
  intro pre post heq
  cases pre with
  | nil => exact absurd (List.cons.inj heq).1 hb
  | cons _ pre => exact h pre post (List.cons.inj heq).2

theorem EscapesArePairs_pair {x : Byte} {xs : List Byte} (hx : x = 0x5E#8 ∨ x = 0x5D#8) (h : EscapesArePairs xs) :
    EscapesArePairs (Config.ESC :: x :: xs) := by
  intro pre post heq
  cases pre with
  | nil => exact ⟨x, xs, (List.cons.inj heq).2.symm, hx⟩
  | cons _ pre =>
    have hne : x ≠ Config.ESC := by rcases hx with rfl | rfl <;> decide
    exact EscapesArePairs_cons hne h pre post (List.cons.inj heq).2

/-- An octet on the wire: itself, when it is not reserved, or a pair (R46). -/
theorem escOctet_cases (b : Byte) :
    (b ≠ Config.FLAG ∧ b ≠ Config.ESC ∧ escOctet b = [b]) ∨
    ∃ x, (x = 0x5E#8 ∨ x = 0x5D#8) ∧ escOctet b = [Config.ESC, x] := by
  by_cases hf : b = Config.FLAG
  · exact .inr ⟨0x5E#8, .inl rfl, by rw [hf]; rfl⟩
  · by_cases he : b = Config.ESC
    · exact .inr ⟨0x5D#8, .inr rfl, by rw [he]; rfl⟩
    · exact .inl ⟨hf, he, escOctet_literal b hf he⟩

/-- Under the escaping rule no boundary octet is left, and every escape octet begins a pair. -/
theorem escOctets_framed (xs : List Byte) : Config.FLAG ∉ escOctets xs ∧ EscapesArePairs (escOctets xs) := by
  induction xs with
  | nil => exact ⟨List.not_mem_nil, EscapesArePairs_nil⟩
  | cons b xs ih =>
    obtain ⟨hflag, hpairs⟩ := ih
    rcases escOctet_cases b with ⟨hf, he, hb⟩ | ⟨x, hx, hb⟩
    · rw [escOctets, hb]
      exact ⟨List.not_mem_cons_of_ne_of_not_mem hf.symm hflag, EscapesArePairs_cons he hpairs⟩
    · rw [escOctets, hb]
      have hne : Config.FLAG ≠ x := by rcases hx with rfl | rfl <;> decide
      exact ⟨List.not_mem_cons_of_ne_of_not_mem flag_ne_esc (List.not_mem_cons_of_ne_of_not_mem hne hflag),
        EscapesArePairs_pair hx hpairs⟩

/-- Settles O15: the interior of a frame is what the escaping rule leaves of the payload and its CRC field. -/
theorem wireFrameReservedOctetsOnlyFrameAndEscape : Obligations.WireFrameReservedOctetsOnlyFrameAndEscape :=
  fun p => ⟨escOctets (p ++ crcField p), wireFrame_eq p, escOctets_framed (p ++ crcField p)⟩

/-! ### What a frame can deliver -/

/-- From `s` to `t` the trace only grew, and each `Deliver` added fits the session of `s` and carries its context. -/
def DeliversFitting (s t : State) : Prop :=
  ∃ new, t.trace = s.trace ++ new ∧
    ∀ ctx p, Event.deliver ctx p ∈ new → p.length + 3 ≤ s.capacity ∧ ctx = s.userCtx

theorem DeliversFitting_of_trace_eq {s t : State} (h : t.trace = s.trace) : DeliversFitting s t :=
  ⟨[], by rw [h, List.append_nil], fun _ _ hd => absurd hd List.not_mem_nil⟩

theorem DeliversFitting_trans {s t u : State} (hst : SameConfiguration s t) (h : DeliversFitting s t)
    (k : DeliversFitting t u) : DeliversFitting s u := by
  obtain ⟨new, hnew, hfit⟩ := h
  obtain ⟨more, hmore, kfit⟩ := k
  refine ⟨new ++ more, by rw [hmore, hnew, List.append_assoc], fun ctx p hd => ?_⟩
  rcases List.mem_append.mp hd with hd | hd
  · exact hfit ctx p hd
  · rw [← hst.capacity, ← hst.userCtx]
    exact kfit ctx p hd

theorem mem_deliveries {ctx : Ctx} {p : List Byte} {es : List Event} (h : Event.deliver ctx p ∈ es) :
    p ∈ deliveries es :=
  List.mem_filterMap.mpr ⟨_, h, rfl⟩

/-- A delivery adds one `Deliver`, of its own payload and the session's context. -/
theorem deliver_fitting {p : List Byte} {s t : State} (hp : p.length + 3 ≤ s.capacity) (h : deliver p s = .next t) :
    DeliversFitting s t := by
  rcases deliver_cases p s t h with ⟨-, rfl⟩ | ⟨-, msgs, -, rfl⟩
  · exact DeliversFitting_of_trace_eq rfl
  · refine ⟨_, rfl, fun ctx q hd => ?_⟩
    rcases List.mem_cons.mp hd with hd | hd
    · cases hd
      exact ⟨hp, rfl⟩
    · have := mem_deliveries hd
      rw [deliveries_sends] at this
      exact absurd this List.not_mem_nil

theorem payloadSpan_length (s : State) : (payloadSpan s).length = s.writeOffset - 2 := by
  simp [payloadSpan]

theorem closeFrame_fitting {s t : State} (hs : s.Inv) (h : closeFrame s = .next t) : DeliversFitting s t := by
  rcases closeFrame_cases s t h with ⟨⟨h2, -⟩, -, u, hu, rfl⟩ | ⟨-, rfl⟩
  · have hp : (payloadSpan s).length + 3 ≤ s.capacity := by
      have := hs.offset_lt
      rw [payloadSpan_length]
      omega
    have hfit : DeliversFitting s u := deliver_fitting hp hu
    exact hfit
  · exact DeliversFitting_of_trace_eq rfl

theorem receiveOctet_fitting {b : Byte} {s t : State} (hs : s.Inv) (h : receiveOctet b s = .next t) :
    DeliversFitting s t := by
  rcases receiveOctet_cases b s t h with ⟨-, -, rfl⟩ | ⟨-, -, hc⟩ | ⟨-, -, rfl⟩ | ⟨-, -, -, -, rfl⟩ | ⟨-, -, -, rfl⟩
  · exact DeliversFitting_of_trace_eq rfl
  · exact closeFrame_fitting hs hc
  · exact DeliversFitting_of_trace_eq rfl
  · exact DeliversFitting_of_trace_eq (afterStore_trace b s)
  · exact DeliversFitting_of_trace_eq (afterStore_trace _ (clearEscape s))

theorem receiveOctets_fitting (octets : List Byte) {s t : State} (hs : s.Inv)
    (h : receiveOctets octets s = .next t) : DeliversFitting s t := by
  induction octets generalizing s with
  | nil =>
    cases h
    exact DeliversFitting_of_trace_eq rfl
  | cons b rest ih =>
    obtain ⟨u, hu, ht⟩ := (receiveOctets_cons_next b rest s t).mp h
    have hmoves := receiveOctet_moves b s u hu
    have huinv : u.Inv := Moves_keep (fun _ _ m => Move_inv m) hmoves hs
    exact DeliversFitting_trans (Moves_sameConfiguration hmoves) (receiveOctet_fitting hs hu) (ih huinv ht)

/-- Settles O41: a frame is closed below `capacity`, so what is delivered, all but the last two octets, is three shorter. -/
theorem everyDeliveredPayloadFits : Obligations.EveryDeliveredPayloadFits := by
  intro s t octets hs h
  obtain ⟨-, h⟩ := inSession_cases (receiveOctets octets) s t h
  have hfit : DeliversFitting (clearReturned s) t :=
    receiveOctets_fitting octets (Move_inv (.returns s none) hs) h
  exact hfit

end Sys2Proof.Machine
end

section
/-! SUPPORT. The statements of 40_crc.md. Everything rests on two facts about one shift of the checksum's loop: it is linear
over exclusive-or, and only zero goes to zero. -/

namespace Sys2Proof.Machine

/-! ### One shift -/

theorem crcShift_of_even {c : Word} (h : c.getLsbD 0 = false) : crcShift c = c >>> 1 :=
  if_neg (Bool.eq_false_iff.mp h)

theorem crcShift_of_odd {c : Word} (h : c.getLsbD 0 = true) : crcShift c = c >>> 1 ^^^ Config.CRC_POLY_REFLECTED :=
  if_pos h

/-- The bit shifted out decides whether the polynomial is added, and that bit is itself linear. -/
theorem crcShift_xor (c d : Word) : crcShift (c ^^^ d) = crcShift c ^^^ crcShift d := by
  have hbit : (c ^^^ d).getLsbD 0 = (c.getLsbD 0 ^^ d.getLsbD 0) := BitVec.getLsbD_xor
  have hshift : (c ^^^ d) >>> 1 = c >>> 1 ^^^ d >>> 1 := BitVec.ushiftRight_xor_distrib c d 1
  cases hc : c.getLsbD 0 <;> cases hd : d.getLsbD 0 <;> rw [hc, hd] at hbit
  · rw [crcShift_of_even hbit, crcShift_of_even hc, crcShift_of_even hd, hshift]
  · rw [crcShift_of_odd hbit, crcShift_of_even hc, crcShift_of_odd hd, hshift, BitVec.xor_assoc]
  · rw [crcShift_of_odd hbit, crcShift_of_odd hc, crcShift_of_even hd, hshift]
    ac_rfl
  · rw [crcShift_of_even hbit, crcShift_of_odd hc, crcShift_of_odd hd, hshift]
    rw [BitVec.xor_assoc, BitVec.xor_comm (d >>> 1), ← BitVec.xor_assoc Config.CRC_POLY_REFLECTED]
    simp

/-- The polynomial's top bit is 1 and a logical right shift clears it, so the bit shifted out can be read off the result. -/
theorem crcShift_top_bit (c : Word) : (crcShift c).getLsbD 15 = c.getLsbD 0 := by
  cases hc : c.getLsbD 0
  · simp [crcShift_of_even hc]
  · rw [crcShift_of_odd hc, BitVec.getLsbD_xor, BitVec.getLsbD_ushiftRight, BitVec.getLsbD_of_ge c _ (by decide)]
    decide

theorem eq_zero_of_crcShift_eq_zero {c : Word} (h : crcShift c = 0#16) : c = 0#16 := by
  have heven : c.getLsbD 0 = false := by rw [← crcShift_top_bit, h, BitVec.getLsbD_zero]
  rw [crcShift_of_even heven] at h
  ext i hi
  cases i with
  | zero => simpa using heven
  | succ i =>
    have hbit : (c >>> 1).getLsbD i = false := by rw [h, BitVec.getLsbD_zero]
    simpa [BitVec.getLsbD_ushiftRight, Nat.add_comm 1 i, BitVec.getLsbD_eq_getElem hi] using hbit

/-! ### The loop -/

theorem crcShifts_xor (n : Nat) (c d : Word) : crcShifts n (c ^^^ d) = crcShifts n c ^^^ crcShifts n d := by
  induction n generalizing c d with
  | zero => rfl
  | succ n ih =>
    simp only [crcShifts]
    rw [crcShift_xor, ih]

theorem eq_zero_of_crcShifts_eq_zero {n : Nat} {c : Word} (h : crcShifts n c = 0#16) : c = 0#16 := by
  induction n generalizing c with
  | zero => exact h
  | succ n ih => exact eq_zero_of_crcShift_eq_zero (ih h)

theorem crcShifts_injective (n : Nat) : Function.Injective (crcShifts n) := by
  intro c d h
  have hzero : crcShifts n (c ^^^ d) = 0#16 := by rw [crcShifts_xor, h, BitVec.xor_self]
  exact BitVec.xor_eq_zero_iff.mp (eq_zero_of_crcShifts_eq_zero hzero)

/-- While only zeros are shifted out the polynomial is never added. -/
theorem crcShifts_of_low_bits_clear {n : Nat} {c : Word} (h : ∀ i < n, c.getLsbD i = false) :
    crcShifts n c = c >>> n := by
  induction n generalizing c with
  | zero => simp [crcShifts]
  | succ n ih =>
    have hrest : ∀ i < n, (c >>> 1).getLsbD i = false := fun i hi => by
      rw [BitVec.getLsbD_ushiftRight]
      exact h (1 + i) (by omega)
    calc crcShifts (n + 1) c = crcShifts n (c >>> 1) := by rw [crcShifts, crcShift_of_even (h 0 (by omega))]
      _ = c >>> (n + 1) := by rw [ih hrest, ← BitVec.shiftRight_add, Nat.add_comm]

/-! ### The step -/

theorem crcStep_xor (c₁ c₂ : Word) (b₁ b₂ : Byte) :
    crcStep (c₁ ^^^ c₂) (b₁ ^^^ b₂) = crcStep c₁ b₁ ^^^ crcStep c₂ b₂ := by
  have hmeet : c₁ ^^^ c₂ ^^^ (b₁ ^^^ b₂).setWidth 16 = (c₁ ^^^ b₁.setWidth 16) ^^^ (c₂ ^^^ b₂.setWidth 16) := by
    rw [BitVec.setWidth_xor]
    ac_rfl
  rw [crcStep, hmeet, crcShifts_xor, crcStep, crcStep]

theorem crcStep_bijective (b : Byte) : Function.Bijective fun c => crcStep c b := by
  refine Finite.injective_iff_bijective.mp fun c d h => ?_
  exact (BitVec.xor_left_inj _).mp (crcShifts_injective 8 h)

/-- What the loop starts from: the high half, which eight shifts bring down unchanged, and a low half that alone meets the
octet. -/
theorem xor_octet_eq_halves (c : Word) (b : Byte) :
    c ^^^ b.setWidth 16 = (c >>> 8) <<< 8 ^^^ (lo8 c ^^^ b).setWidth 16 := by
  ext i hi
  by_cases h : i < 8
  · simp [lo8, h, hi]
  · have hhigh : 8 + (i - 8) = i := by omega
    simp [lo8, h, hi, hhigh]

theorem crcStep_eq_table (c : Word) (b : Byte) : crcStep c b = c >>> 8 ^^^ crcStep 0#16 (lo8 c ^^^ b) := by
  have hhigh : crcShifts 8 ((c >>> 8) <<< 8) = c >>> 8 := by
    rw [crcShifts_of_low_bits_clear fun i hi => by simp [hi]]
    ext i hi
    simpa using BitVec.lt_of_getLsbD
  rw [crcStep, xor_octet_eq_halves, crcShifts_xor, hhigh, crcStep, BitVec.zero_xor]

/-- Settles O2: the loop is linear and injective, and the high half of the checksum only moves down. -/
theorem crcStepIsLinearBijectiveAndTableDriven : Obligations.CrcStepIsLinearBijectiveAndTableDriven :=
  ⟨crcStep_xor, crcStep_bijective, crcStep_eq_table⟩

/-! ### The shift form -/

/-- Linear over exclusive-or (40_crc.md R64 (a), for a function of one operand). -/
def XorLinear {m n : Nat} (f : BitVec m → BitVec n) : Prop := ∀ x y, f (x ^^^ y) = f x ^^^ f y

theorem XorLinear.map_zero {m n : Nat} {f : BitVec m → BitVec n} (hf : XorLinear f) : f 0#m = 0#n := by
  have h := hf 0#m 0#m
  rwa [BitVec.xor_self, BitVec.xor_self] at h

theorem XorLinear.comp {l m n : Nat} {g : BitVec m → BitVec n} {f : BitVec l → BitVec m} (hg : XorLinear g)
    (hf : XorLinear f) : XorLinear fun x => g (f x) := fun x y => by simp only [hf x y, hg (f x) (f y)]

theorem setWidth_setWidth_succ_eq_xor {m : Nat} (x : BitVec m) (i : Nat) :
    (x.setWidth (i + 1)).setWidth m = (x.setWidth i).setWidth m ^^^ (x &&& BitVec.twoPow m i) := by
  ext j hj
  rcases Nat.lt_trichotomy j i with h | rfl | h
  · simp [h, Nat.lt_succ_of_lt h, h.ne]
  · simp [hj]
  · simp [h.ne', Nat.not_lt.mpr h.le, Nat.not_lt.mpr (Nat.succ_le_of_lt h)]

/-- Two linear functions that agree on every single bit agree: R65's "equality was checked on a basis", which suffices by
R64 (a). The operand is taken in one bit at a time. -/
theorem XorLinear.eq_of_basis {m n : Nat} {f g : BitVec m → BitVec n} (hf : XorLinear f) (hg : XorLinear g)
    (hbasis : ∀ i < m, f (BitVec.twoPow m i) = g (BitVec.twoPow m i)) (x : BitVec m) : f x = g x := by
  have hlow : ∀ i ≤ m, f ((x.setWidth i).setWidth m) = g ((x.setWidth i).setWidth m) := by
    intro i
    induction i with
    | zero =>
      intro _
      simp [BitVec.of_length_zero, hf.map_zero, hg.map_zero]
    | succ i ih =>
      intro hi
      have hbit : f (x &&& BitVec.twoPow m i) = g (x &&& BitVec.twoPow m i) := by
        rw [BitVec.and_twoPow]
        split
        · exact hbasis i hi
        · rw [hf.map_zero, hg.map_zero]
      rw [setWidth_setWidth_succ_eq_xor, hf, hg, ih (by omega), hbit]
  simpa using hlow m (Nat.le_refl m)

/-- `d ^ (d << 4)` on 8 bits (40_crc.md R65). -/
def foldNibble (d : Byte) : Byte := d ^^^ d <<< 4

/-- What R65's shift form adds to the checksum's high half. -/
def shiftForm (d : Byte) : Word := concat16 d 0#8 ^^^ (d >>> 4).setWidth 16 ^^^ d.setWidth 16 <<< 3

theorem xorLinear_foldNibble : XorLinear foldNibble := fun x y => by
  simp only [foldNibble, BitVec.shiftLeft_xor_distrib]
  ac_rfl

theorem concat16_zero (d : Byte) : concat16 d 0#8 = d.setWidth 16 <<< 8 := by
  simp [concat16]

theorem xorLinear_shiftForm : XorLinear shiftForm := fun x y => by
  simp only [shiftForm, concat16_zero, BitVec.setWidth_xor, BitVec.shiftLeft_xor_distrib,
    BitVec.ushiftRight_xor_distrib]
  ac_rfl

theorem xorLinear_crcStep_zero : XorLinear (crcStep 0#16) := fun x y => crcStep_xor 0#16 0#16 x y

/-- The table's entry in closed form. -/
theorem crcStep_zero_eq_shiftForm (d : Byte) : crcStep 0#16 d = shiftForm (foldNibble d) :=
  xorLinear_crcStep_zero.eq_of_basis (xorLinear_shiftForm.comp xorLinear_foldNibble) (by decide) d

/-- The two halves of `{d, hi8(c)}` do not overlap, so joining them is an exclusive-or. -/
theorem concat16_or_hi8 (d : Byte) (c : Word) :
    concat16 d 0#8 ||| (hi8 c).setWidth 16 = c >>> 8 ^^^ concat16 d 0#8 := by
  rw [concat16_zero]
  ext i hi
  by_cases h : i < 8
  · simp [hi8, h]
  · simp [hi8, h, BitVec.getLsbD_of_ge c (8 + i) (by omega)]

/-- Settles O3: the high half of the checksum passes through, and the table's entry is R65's closed form. -/
theorem crcStepEqualsItsShiftForm : Obligations.CrcStepEqualsItsShiftForm := by
  rintro c b _ _ rfl rfl
  calc crcStep c b = c >>> 8 ^^^ shiftForm (foldNibble (b ^^^ lo8 c)) := by
        rw [crcStep_eq_table, crcStep_zero_eq_shiftForm, BitVec.xor_comm (lo8 c)]
    _ = _ := by simp only [shiftForm, foldNibble, concat16_or_hi8, BitVec.xor_assoc]

/-! ### The residue -/

theorem crcStep_lo8 (c : Word) : crcStep c (lo8 c) = c >>> 8 := by
  rw [crcStep_eq_table, BitVec.xor_self, xorLinear_crcStep_zero.map_zero, BitVec.xor_zero]

theorem hi8_eq_lo8_shifted (c : Word) : hi8 c = lo8 (c >>> 8) := by
  ext i hi
  simp [hi8, lo8]

/-- Each of its own octets, low one first, pushes the accumulator down by eight bits (40_crc.md R63). -/
theorem crcFold_own_octets (c : Word) : crcFold c [lo8 c, hi8 c] = 0#16 :=
  calc crcFold c [lo8 c, hi8 c] = crcStep (crcStep c (lo8 c)) (hi8 c) := rfl
    _ = c >>> 8 >>> 8 := by rw [crcStep_lo8, hi8_eq_lo8_shifted, crcStep_lo8]
    _ = 0#16 := by rw [← BitVec.shiftRight_add]; exact BitVec.ushiftRight_eq_zero (by decide)

/-- Settles O4: the CRC field is the two octets of the payload's own accumulator. -/
theorem foldingAFrameBodyLeavesZero : Obligations.FoldingAFrameBodyLeavesZero :=
  ⟨crcFold_own_octets, fun p => by rw [crcFold_append, crcField, crcFold_own_octets]⟩

/-! ### The instruction -/

/-- Settles O1: `CRC_STEP` is outside every session, so its meaning is the same in every state. -/
theorem crcStepReturnsItsValueAndTouchesNoState : Obligations.CrcStepReturnsItsValueAndTouchesNoState :=
  fun _ _ _ => rfl

end Sys2Proof.Machine
end

section
/-! SUPPORT. The statements of 41_encoder.md: what each instruction of the encoder answers on a usable session, `SEND` as its
five steps, and that none of them reaches the decoder. -/

namespace Sys2Proof.Machine

/-! ### The instructions of the encoder on a usable session -/

/-- An operation whose body always answers next, on a usable session. -/
theorem inSession_next_of_usable (f : State → State) {s t : State} (hu : s.usable = true)
    (hf : f (clearReturned s) = t) : inSession (fun u => .next (f u)) s = .next t :=
  (inSession_of_usable _ s hu).trans (congrArg Host.Outcome.next hf)

/-- Settles O5: emitting one octet appends its event, unescaped. -/
theorem txFlagEmitsTheBoundaryOctet : Obligations.TxFlagEmitsTheBoundaryOctet := fun s hu =>
  inSession_next_of_usable (emitOctet Config.FLAG) hu (emitOctet_eq Config.FLAG (clearReturned s))

/-- The escaping rule in the numbers of R72. -/
theorem escOctet_eq_ite (b : Byte) :
    escOctet b = if b = 0x7E#8 ∨ b = 0x7D#8 then [0x7D#8, b ^^^ 0x20#8] else [b] := by
  simp [escOctet, mustEscape, invertBit5]

/-- Settles O6: `TX_PUT` emits the octets its operand is written as, which the escaping rule gives. -/
theorem txPutFollowsTheEscapingRule : Obligations.TxPutFollowsTheEscapingRule := by
  intro s b hu
  rw [exec_txPut b s hu, escOctet_eq_ite]

/-- Settles O8: the payload loop, run over the whole message from the seed. -/
theorem txPayloadFoldsAndEmitsTheMessage : Obligations.TxPayloadFoldsAndEmitsTheMessage := fun s msg hu =>
  inSession_next_of_usable (sendPayload msg) hu (sendPayload_eq msg (clearReturned s))

/-- Settles O9: two octets put one after the other, the accumulator only read. -/
theorem txCrcEmitsLowThenHigh : Obligations.TxCrcEmitsLowThenHigh := fun s hu =>
  inSession_next_of_usable sendCrc hu (sendCrc_eq (clearReturned s))

/-- Settles O10: flushing appends its event where the capability is present. -/
theorem txFlushRaisesOneFlush : Obligations.TxFlushRaisesOneFlush := fun s hu =>
  inSession_next_of_usable emitFlush hu (emitFlush_eq (clearReturned s))

/-- `SEND` appends the events of its message, whichever capabilities are present (R77, R78). -/
theorem exec_send (msg : List Byte) (s : State) (hu : s.usable = true) :
    exec (.send msg) s = .next { s with returned := none, trace := s.trace ++ sendEvents s msg } :=
  inSession_next_of_usable (sendMessage msg) hu (sendMessage_eq msg (clearReturned s))

theorem sendEvents_of_present (s : State) (msg : List Byte) (ho : s.capOutput = true) (hf : s.capFlush = true) :
    sendEvents s msg = (wireFrame msg).map (Event.emit s.userCtx) ++ [Event.flush s.userCtx] := by
  simp [sendEvents, emitEvents, flushEvents, ho, hf]

/-- Settles O11: with both capabilities present the events are those of the whole wire frame and one `Flush`. -/
theorem sendEmitsTheWireFrameThenFlushes : Obligations.SendEmitsTheWireFrameThenFlushes := by
  intro s msg hu ho hf
  rw [exec_send msg s hu, sendEvents_of_present s msg ho hf, List.append_assoc]

/-- Settles O12: which events `SEND` raises is decided by each capability for itself. -/
theorem sendWithAbsentCapabilities : Obligations.SendWithAbsentCapabilities :=
  fun s msg hu _ => exec_send msg s hu

/-- Settles O13: the five steps append, one after another, the parts the wire frame is made of, and the flush. -/
theorem sendIsItsFiveStepsInOrder : Obligations.SendIsItsFiveStepsInOrder := by
  intro s msg hu
  refine ⟨_, exec_send msg s hu, ?_⟩
  rw [txFlagEmitsTheBoundaryOctet s hu, andThen_next, txPayloadFoldsAndEmitsTheMessage _ msg, andThen_next,
    txCrcEmitsLowThenHigh, andThen_next, txFlagEmitsTheBoundaryOctet, andThen_next, txFlushRaisesOneFlush]
  · simp only [sendEvents, wireFrame, emitEvents_append, List.append_assoc]
    rfl
  all_goals exact hu

/-! ### The decoder under the encoder -/

/-- All that an instruction of the encoder may change: the returned value, the local accumulator and index, and the trace, by
events that deliver nothing. -/
def EncodesOnly (s t : State) : Prop :=
  ∃ (r : Option Returned) (c : Word) (n : Nat) (es : List Event), deliveries es = [] ∧
    t = { s with returned := r, txCrc := c, txIndex := n, trace := s.trace ++ es }

theorem EncodesOnly_leaves_decoder {s t : State} (h : EncodesOnly s t) :
    SameDecoder s t ∧ SameHostSide s t ∧ deliveries t.trace = deliveries s.trace := by
  obtain ⟨r, c, n, es, hes, rfl⟩ := h
  exact ⟨⟨rfl, rfl, rfl, fun _ => rfl⟩, ⟨rfl, rfl⟩, by simp [hes]⟩

theorem EncodesOnly_returns (s : State) (r : Option Returned) : EncodesOnly s { s with returned := r } :=
  ⟨r, s.txCrc, s.txIndex, [], rfl, by simp⟩

theorem EncodesOnly_raises (s : State) {es : List Event} (h : deliveries es = []) :
    EncodesOnly s { s with returned := none, trace := s.trace ++ es } :=
  ⟨none, s.txCrc, s.txIndex, es, h, rfl⟩

/-- Every instruction but `INIT` and `CRC_STEP` is an operation of the session, and refused where none stands (U5). -/
theorem exec_of_unusable {i : Instr} {s : State} (hu : ¬ s.usable = true) (hi : ∀ a, i ≠ .init a)
    (hc : ∀ c b, i ≠ .crcStep c b) : exec i s = .refused .sessionNotInitialised := by
  cases i with
  | init a => exact absurd rfl (hi a)
  | crcStep c b => exact absurd rfl (hc c b)
  | _ => exact if_neg hu

/-- Where an operation of the session answers next, the session is usable, and what it answers there is known. -/
theorem EncodesOnly_of_answer {i : Instr} {s t u : State} (h : exec i s = .next t)
    (hk : s.usable = true → exec i s = .next u) (he : EncodesOnly s u) (hi : ∀ a, i ≠ .init a := by nofun)
    (hc : ∀ c b, i ≠ .crcStep c b := by nofun) : EncodesOnly s t := by
  by_cases hu : s.usable = true
  · cases (hk hu).symm.trans h
    exact he
  · cases (exec_of_unusable hu hi hc).symm.trans h

theorem exec_txPut_encodesOnly {b : Byte} {s t : State} (h : exec (.txPut b) s = .next t) : EncodesOnly s t :=
  EncodesOnly_of_answer h (exec_txPut b s) (EncodesOnly_raises s (deliveries_emitEvents s _))

/-- A row of the transmitted-octet map does what `TX_PUT` does with its octet. -/
theorem exec_txClass_encodesOnly (b : Byte) {s t : State} (h : exec (txClass b) s = .next t) : EncodesOnly s t :=
  exec_txPut_encodesOnly ((exec_txPut_eq_class b s).trans h)

theorem txClass_of_exec_txLiteral {b : Byte} {s t : State} (h : exec (.txLiteral b) s = .next t) :
    txClass b = .txLiteral b :=
  (inTxClass_cases _ b _ _ t (inSession_cases _ s t h).2).1

/-- Settles O56: `CRC_STEP` returns a value and does nothing else, and the instructions of the encoder encode only. -/
theorem encoderAndChecksumLeaveTheDecoderAlone : Obligations.EncoderAndChecksumLeaveTheDecoderAlone := by
  intro s t msg b c i hi h
  refine EncodesOnly_leaves_decoder ?_
  simp only [List.mem_cons, List.not_mem_nil, or_false] at hi
  rcases hi with rfl | rfl | rfl | rfl | rfl | rfl | rfl | rfl | rfl | rfl
  · cases h
    exact EncodesOnly_returns s _
  · exact EncodesOnly_of_answer h (exec_send msg s) (EncodesOnly_raises s (deliveries_sendEvents s msg))
  · exact EncodesOnly_of_answer h (txFlagEmitsTheBoundaryOctet s) (EncodesOnly_raises s (deliveries_emitEvents s _))
  · exact exec_txPut_encodesOnly h
  · exact EncodesOnly_of_answer h (txPayloadFoldsAndEmitsTheMessage s msg)
      ⟨none, _, _, _, deliveries_emitEvents s _, rfl⟩
  · exact EncodesOnly_of_answer h (txCrcEmitsLowThenHigh s) (EncodesOnly_raises s (deliveries_emitEvents s _))
  · exact EncodesOnly_of_answer h (txFlushRaisesOneFlush s) (EncodesOnly_raises s (deliveries_flushEvents s))
  · exact exec_txClass_encodesOnly Config.FLAG h
  · exact exec_txClass_encodesOnly Config.ESC h
  · exact exec_txClass_encodesOnly b (txClass_of_exec_txLiteral h ▸ h)

end Sys2Proof.Machine
end

section
/-! SUPPORT. The statements of 42_decoder.md: what each received-octet class answers, that reception completes and can be split
anywhere, and the round trip of encoded frames. Two ideas carry the hard ones: the octets of a payload under the escaping rule
come to the same stores as the payload, and a frame is valid exactly when folding all its accumulated octets leaves zero. -/

namespace Sys2Proof.Machine

/-! ### A boundary octet -/

theorem closeFrame_of_invalid (s : State) (hb : s.writeOffset ≤ s.bufBytes) (hv : ¬ s.HoldsValidFrame) :
    closeFrame s = .next (discardAndReset s) := by
  by_cases h2 : 2 ≤ s.writeOffset
  · rw [closeFrame, if_pos h2, if_pos hb, if_neg fun hc => hv ⟨h2, hc⟩]
  · exact if_neg h2

theorem closeFrame_of_valid (s : State) (hb : s.writeOffset ≤ s.bufBytes) (hv : s.HoldsValidFrame) :
    closeFrame s = andThen (deliver (payloadSpan s) s) fun t => .next (discardAndReset t) := by
  obtain ⟨h2, hc⟩ := hv
  rw [closeFrame, if_pos h2, if_pos hb, if_pos hc]

theorem exec_rxFlagClose {s : State} (hu : s.usable = true) (he : s.escapePending = false) :
    exec .rxFlagClose s = closeFrame (clearReturned s) :=
  inSession_inRxClass .rxFlagClose Config.FLAG closeFrame s hu (by rw [he]; rfl)

/-- Settles O18: each test of the priority order leads to the body of the row it stands for. -/
theorem rxByteRunsTheClassOfItsOctet : Obligations.RxByteRunsTheClassOfItsOctet :=
  fun s b => exec_rxByte_eq_class b s

/-- Settles O21: with an escape pending the boundary octet is in the class of the row, whose body tests nothing. -/
theorem rxFlagAbortDiscardsWithoutLooking : Obligations.RxFlagAbortDiscardsWithoutLooking := fun s hu he =>
  inSession_inRxClass .rxFlagAbort Config.FLAG (fun t => .next (abortFrame t)) s hu (by rw [he]; rfl)

/-- Settles O22: the delivery of a valid frame to a capability that makes no call, then the reset. -/
theorem rxFlagCloseDeliversAValidFrame : Obligations.RxFlagCloseDeliversAValidFrame := by
  intro s hu he hb h2 hcrc hcap hplan
  have hv : (clearReturned s).HoldsValidFrame := ⟨h2, hcrc⟩
  rw [exec_rxFlagClose hu he, closeFrame_of_valid (clearReturned s) hb hv, deliver_sends _ (clearReturned s) [] hcap hplan]
  rfl

/-- Settles O23: delivering without a capability does nothing, and the reset follows. -/
theorem validFrameWithoutADeliveryCapability : Obligations.ValidFrameWithoutADeliveryCapability := by
  intro s hu he hb hv hcap
  have hv : (clearReturned s).HoldsValidFrame := hv
  rw [exec_rxFlagClose hu he, closeFrame_of_valid (clearReturned s) hb hv, deliver_of_absent _ (clearReturned s) hcap]
  rfl

/-- Settles O24: a frame that is too short or whose CRC differs is not valid, and only the reset is left. -/
theorem rxFlagCloseDiscardsAnInvalidFrame : Obligations.RxFlagCloseDiscardsAnInvalidFrame := by
  intro s hu he hb hbad
  have hv : ¬ (clearReturned s).HoldsValidFrame := by
    rintro ⟨h2, hcrc⟩
    rcases hbad with hshort | hne
    · exact Nat.not_lt.mpr h2 hshort
    · exact hne hcrc
  rw [exec_rxFlagClose hu he, closeFrame_of_invalid (clearReturned s) hb hv]
  rfl

/-- Settles O26: with no escape pending the escape octet is in the class of the row, whose body sets the flag. -/
theorem rxEscSetsTheFlagOnly : Obligations.RxEscSetsTheFlagOnly := fun s hu he =>
  inSession_inRxClass .rxEsc Config.ESC (fun t => .next (setEscape t)) s hu (by rw [he]; rfl)

/-! ### A stored octet -/

@[simp] theorem memRead_afterStore_same (v : Byte) (s : State) : memRead (afterStore v s) s.writeOffset = v := by
  obtain ⟨w, c, hs⟩ := afterStore_eq_update v s
  rw [hs]
  exact memRead_storeOctet_same v s

/-- What storing `v` leaves in the registers and the buffer: the fold with a lag of two and the next offset, or the reset at
`capacity` (R89, R90), and nothing raised or returned. -/
structure Stores (v : Byte) (s t : State) : Prop where
  stored : memRead t s.writeOffset = v
  others : ∀ a, a ≠ s.writeOffset → memRead t a = memRead s a
  escapePending : t.escapePending = false
  room : s.writeOffset + 1 ≠ s.capacity → t.writeOffset = s.writeOffset + 1 ∧
    t.runningCrc = if 2 ≤ s.writeOffset then crcStep s.runningCrc (memRead s (s.writeOffset - 2)) else s.runningCrc
  full : s.writeOffset + 1 = s.capacity → t.writeOffset = 0 ∧ t.runningCrc = Config.CRC_INIT
  trace : t.trace = s.trace
  returned : t.returned = none
  configuration : SameConfiguration s t
  encoder : SameEncoder s t
  hostSide : SameHostSide s t

/-- Entering an operation and clearing the mode bit change nothing that a store reads. -/
theorem stores_afterStore (v : Byte) (s : State) : Stores v s (afterStore v (clearEscape (clearReturned s))) := by
  obtain ⟨w, c, hupdate⟩ := afterStore_eq_update v (clearEscape (clearReturned s))
  exact {
    stored := memRead_afterStore_same v (clearEscape (clearReturned s))
    others := memRead_afterStore_other v (clearEscape (clearReturned s))
    escapePending := afterStore_escapePending v _
    room := fun h => by
      rw [afterStore_of_room v (clearEscape (clearReturned s)) h]
      exact ⟨rfl, rfl⟩
    full := fun h => by
      rw [afterStore_of_full v (clearEscape (clearReturned s)) h]
      exact ⟨rfl, rfl⟩
    trace := afterStore_trace v _
    returned := by rw [hupdate]; rfl
    configuration := by rw [hupdate]; exact ⟨rfl, rfl, rfl, rfl, rfl, rfl, rfl⟩
    encoder := by rw [hupdate]; exact ⟨rfl, rfl⟩
    hostSide := by rw [hupdate]; exact ⟨rfl, rfl⟩ }

theorem clearEscape_of_clear {s : State} (he : s.escapePending = false) : clearEscape s = s := by
  cases s
  cases he
  rfl

/-- `RX_DATA` in its class and inside the buffer stores its octet (R87). -/
theorem exec_rxData_stores {s : State} {b : Byte} (hu : s.usable = true) (he : s.escapePending = false)
    (hf : b ≠ Config.FLAG) (hesc : b ≠ Config.ESC) (hw : s.writeOffset < s.bufBytes) :
    ∃ t, exec (.rxData b) s = .next t ∧ Stores b s t := by
  have hc : rxClass s.escapePending b = .rxData b := by rw [he, rxClass_data b hf hesc]
  have hclear : clearEscape (clearReturned s) = clearReturned s := clearEscape_of_clear he
  refine ⟨_, ?_, stores_afterStore b s⟩
  rw [hclear]
  exact (inSession_inRxClass _ b _ s hu hc).trans (accumulate_eq b (clearReturned s) hw)

/-- `RX_DATA_ESCAPED` in its class and inside the buffer stores its octet with bit 5 inverted (R88). -/
theorem exec_rxDataEscaped_stores {s : State} {b : Byte} (hu : s.usable = true) (he : s.escapePending = true)
    (hf : b ≠ Config.FLAG) (hw : s.writeOffset < s.bufBytes) :
    ∃ t, exec (.rxDataEscaped b) s = .next t ∧ Stores (invertBit5 b) s t := by
  have hc : rxClass s.escapePending b = .rxDataEscaped b := by rw [he, rxClass_escaped b hf]
  exact ⟨_, (inSession_inRxClass _ b _ s hu hc).trans
    (accumulate_eq (invertBit5 b) (clearEscape (clearReturned s)) hw), stores_afterStore _ s⟩

/-- Settles O27: what storing the octet itself leaves. -/
theorem rxDataStoresFoldsAndAdvances : Obligations.RxDataStoresFoldsAndAdvances := by
  intro s b hu he hf hesc hw
  obtain ⟨t, ht, h⟩ := exec_rxData_stores hu he hf hesc hw
  exact ⟨t, ht, h.stored, h.others, h.escapePending, h.room, h.full, h.trace, h.returned, h.configuration, h.encoder,
    h.hostSide⟩

/-- Settles O28: what storing the octet with bit 5 inverted leaves. -/
theorem rxDataEscapedStoresTheInvertedOctet : Obligations.RxDataEscapedStoresTheInvertedOctet := by
  intro s b hu he hf hw
  obtain ⟨t, ht, h⟩ := exec_rxDataEscaped_stores hu he hf hw
  exact ⟨t, ht, h.stored, h.others, h.escapePending, h.room, h.full, h.trace, h.returned, h.configuration, h.encoder,
    h.hostSide⟩

/-- `RX_BYTE` of an octet that is neither a boundary nor the beginning of an escape stores it, inverted after an escape. -/
theorem exec_rxByte_stores {s : State} {b : Byte} (hu : s.usable = true) (hf : b ≠ Config.FLAG)
    (hesc : b = Config.ESC → s.escapePending = true) (hw : s.writeOffset < s.bufBytes) :
    ∃ t, exec (.rxByte b) s = .next t ∧ Stores (if s.escapePending then invertBit5 b else b) s t := by
  rw [exec_rxByte_eq_class]
  cases he : s.escapePending
  · have hne : b ≠ Config.ESC := fun h => by simp [hesc h] at he
    rw [rxClass_data b hf hne]
    exact exec_rxData_stores hu he hf hne hw
  · rw [rxClass_escaped b hf]
    exact exec_rxDataEscaped_stores hu he hf hw

/-- Settles O29: a store at the last index below the guard octet resets the decoder. -/
theorem oversizeDropsTheAccumulation : Obligations.OversizeDropsTheAccumulation := by
  intro s b hu hw hf hesc
  obtain ⟨t, ht, h⟩ := exec_rxByte_stores hu hf hesc (by unfold State.bufBytes; omega)
  obtain ⟨hoffset, hcrc⟩ := h.full hw
  rw [← hw, Nat.add_sub_cancel]
  exact ⟨t, ht, ⟨hoffset, h.escapePending, hcrc⟩, h.trace, h.stored, h.others, h.configuration, h.encoder, h.hostSide⟩

/-! ### What a boundary octet leaves -/

theorem deliver_buffer {p : List Byte} {s t : State} (h : deliver p s = .next t) : t.buffer = s.buffer := by
  rcases deliver_cases p s t h with ⟨-, rfl⟩ | ⟨-, msgs, -, rfl⟩ <;> rfl

theorem closeFrame_registers {s t : State} (h : closeFrame s = .next t) :
    t.writeOffset = 0 ∧ t.runningCrc = Config.CRC_INIT ∧ t.buffer = s.buffer := by
  rcases closeFrame_cases s t h with ⟨-, -, u, hu, rfl⟩ | ⟨-, rfl⟩
  · have hbuffer : u.buffer = s.buffer := deliver_buffer hu
    exact ⟨rfl, rfl, hbuffer⟩
  · exact ⟨rfl, rfl, rfl⟩

/-- A boundary octet resets the decoder and leaves the buffer alone (R85). -/
theorem receiveOctet_flag_resets {s t : State} (h : receiveOctet Config.FLAG s = .next t) :
    t.AtRest ∧ t.buffer = s.buffer := by
  rw [receiveOctet_flag] at h
  split at h
  · cases h
    exact ⟨⟨rfl, rfl, rfl⟩, rfl⟩
  · rename_i he
    obtain ⟨hoffset, hcrc, hbuffer⟩ := closeFrame_registers h
    have hescape := closeFrame_escapePending s t h
    exact ⟨⟨hoffset, by simpa [hescape] using he, hcrc⟩, hbuffer⟩

theorem inv_offset_lt_bufBytes {s : State} (h : s.Inv) : s.writeOffset < s.bufBytes :=
  Nat.lt_succ_of_lt h.offset_lt

/-- The offset and the mode bit after an octet that is stored. -/
theorem exec_rxByte_offset {s t : State} {b : Byte} (hs : s.Inv) (h : exec (.rxByte b) s = .next t)
    (hf : b ≠ Config.FLAG) (hesc : b = Config.ESC → s.escapePending = true) :
    t.escapePending = false ∧
    (s.writeOffset + 1 < s.capacity → t.writeOffset = s.writeOffset + 1) ∧
    (s.writeOffset + 1 = s.capacity → t.writeOffset = 0) := by
  have hu := (exec_rxByte_cases b s t h).1
  obtain ⟨u, hu, hst⟩ := exec_rxByte_stores hu hf hesc (inv_offset_lt_bufBytes hs)
  cases h.symm.trans hu
  exact ⟨hst.escapePending, fun hlt => (hst.room (Nat.ne_of_lt hlt)).1, fun heq => (hst.full heq).1⟩

/-- Settles O35: the named states are predicates on the offset and the mode bit, which each class moves as said. -/
theorem namedStatesMoveAsStated : Obligations.NamedStatesMoveAsStated := by
  intro s t b hs h
  have hrun := (exec_rxByte_cases b s t h).2
  refine ⟨?_, ?_, fun hf hesc => ?_⟩
  · rintro rfl
    obtain ⟨⟨hoffset, hescape, -⟩, -⟩ := receiveOctet_flag_resets hrun
    exact ⟨by simp [isIdle, hoffset], hescape⟩
  · rintro rfl he
    rw [receiveOctet_esc (clearReturned s) he] at hrun
    cases hrun
    exact ⟨rfl, rfl, rfl⟩
  · obtain ⟨hescape, hroom, hfull⟩ := exec_rxByte_offset hs h hf hesc
    refine ⟨hescape, fun hlt => ⟨?_, hroom hlt⟩, fun heq => ?_⟩
    · simp [isAccumulating, hroom hlt]
    · simp [isIdle, hfull heq]

/-! ### Reception completes -/

/-- An octet other than a boundary that closes a frame always completes inside the buffer. -/
theorem receiveOctet_of_inside (b : Byte) (s : State) (hw : s.writeOffset < s.bufBytes) :
    (∃ t, receiveOctet b s = .next t) ∨ receiveOctet b s = closeFrame s := by
  by_cases hf : b = Config.FLAG
  · subst hf
    cases he : s.escapePending
    · exact .inr (by rw [receiveOctet_flag, he]; rfl)
    · exact .inl ⟨abortFrame s, by rw [receiveOctet_flag, he]; rfl⟩
  · cases he : s.escapePending
    · by_cases hesc : b = Config.ESC
      · subst hesc
        exact .inl ⟨_, receiveOctet_esc s he⟩
      · exact .inl ⟨_, (receiveOctet_data b s hf hesc he).trans (accumulate_eq b s hw)⟩
    · exact .inl ⟨_, (receiveOctet_escaped b s hf he).trans (accumulate_eq _ (clearEscape s) hw)⟩

theorem clearReturned_inv {s : State} (h : s.Inv) : (clearReturned s).Inv := Move_inv (.returns s none) h

/-- A delivery to a capability that only sends completes, present or not (R124). -/
theorem deliver_completes (p : List Byte) {s : State} (h : s.ConsumerSendsOnly) : ∃ t, deliver p s = .next t := by
  obtain ⟨msgs, hm⟩ := ConsumerSendsOnly_head s h
  cases hc : s.capDeliver
  · exact ⟨_, deliver_of_absent p s hc⟩
  · exact ⟨_, deliver_sends p s msgs hc hm⟩

theorem closeFrame_completes {s : State} (hb : s.writeOffset ≤ s.bufBytes) (h : s.ConsumerSendsOnly) :
    ∃ t, closeFrame s = .next t := by
  by_cases hv : s.HoldsValidFrame
  · obtain ⟨u, hu⟩ := deliver_completes (payloadSpan s) h
    exact ⟨discardAndReset u, by rw [closeFrame_of_valid s hb hv, hu, andThen_next]⟩
  · exact ⟨_, closeFrame_of_invalid s hb hv⟩

theorem receiveOctet_completes (b : Byte) {s : State} (hs : s.Inv) (h : s.ConsumerSendsOnly) :
    ∃ t, receiveOctet b s = .next t := by
  have hw := inv_offset_lt_bufBytes hs
  rcases receiveOctet_of_inside b s hw with ht | hclose
  · exact ht
  · obtain ⟨t, ht⟩ := closeFrame_completes hw.le h
    exact ⟨t, hclose.trans ht⟩

theorem receiveOctet_inv {b : Byte} {s t : State} (hs : s.Inv) (h : receiveOctet b s = .next t) : t.Inv :=
  Moves_keep (fun _ _ m => Move_inv m) (receiveOctet_moves b s t h) hs

/-- All that reception leaves of the host's plan and the encoder's local state, and that it returns nothing. -/
structure ReceivesOnly (s t : State) : Prop where
  encoder : SameEncoder s t
  returned : t.returned = s.returned
  plan : t.deliverPlan <:+ s.deliverPlan

theorem ReceivesOnly_trans {s t u : State} (h : ReceivesOnly s t) (k : ReceivesOnly t u) : ReceivesOnly s u :=
  ⟨⟨k.encoder.txCrc.trans h.encoder.txCrc, k.encoder.txIndex.trans h.encoder.txIndex⟩,
    k.returned.trans h.returned, k.plan.trans h.plan⟩

theorem afterStore_receivesOnly (v : Byte) (s : State) : ReceivesOnly s (afterStore v s) := by
  obtain ⟨w, c, h⟩ := afterStore_eq_update v s
  rw [h]
  exact ⟨⟨rfl, rfl⟩, rfl, List.suffix_refl _⟩

theorem closeFrame_receivesOnly {s t : State} (h : closeFrame s = .next t) : ReceivesOnly s t := by
  rcases closeFrame_cases s t h with ⟨-, -, u, hu, rfl⟩ | ⟨-, rfl⟩
  · rcases deliver_cases _ s u hu with ⟨-, rfl⟩ | ⟨-, msgs, -, rfl⟩
    · exact ⟨⟨rfl, rfl⟩, rfl, List.suffix_refl _⟩
    · exact ⟨⟨rfl, rfl⟩, rfl, List.tail_suffix _⟩
  · exact ⟨⟨rfl, rfl⟩, rfl, List.suffix_refl _⟩

theorem receiveOctet_receivesOnly {b : Byte} {s t : State} (h : receiveOctet b s = .next t) : ReceivesOnly s t := by
  rcases receiveOctet_cases b s t h with ⟨-, -, rfl⟩ | ⟨-, -, hc⟩ | ⟨-, -, rfl⟩ | ⟨-, -, -, -, rfl⟩ | ⟨-, -, -, rfl⟩
  · exact ⟨⟨rfl, rfl⟩, rfl, List.suffix_refl _⟩
  · exact closeFrame_receivesOnly hc
  · exact ⟨⟨rfl, rfl⟩, rfl, List.suffix_refl _⟩
  · exact afterStore_receivesOnly b s
  · obtain ⟨hencoder, hreturned, hplan⟩ := afterStore_receivesOnly (invertBit5 b) (clearEscape s)
    exact ⟨⟨hencoder.txCrc, hencoder.txIndex⟩, hreturned, hplan⟩

theorem receiveOctets_receivesOnly {octets : List Byte} {s t : State} (h : receiveOctets octets s = .next t) :
    ReceivesOnly s t := by
  induction octets generalizing s with
  | nil =>
    cases h
    exact ⟨⟨rfl, rfl⟩, rfl, List.suffix_refl _⟩
  | cons b rest ih =>
    obtain ⟨u, hu, ht⟩ := (receiveOctets_cons_next b rest s t).mp h
    exact ReceivesOnly_trans (receiveOctet_receivesOnly hu) (ih ht)

theorem ConsumerSendsOnly_of_suffix {s t : State} (hp : t.deliverPlan <:+ s.deliverPlan)
    (h : s.ConsumerSendsOnly) : t.ConsumerSendsOnly :=
  fun calls hc => h calls (hp.mem hc)

/-- What `RX_BYTE` and `RX_BUF` keep of a session under the launch premises. -/
structure Receives (s t : State) : Prop where
  inv : t.Inv
  launched : t.Launched
  configuration : SameConfiguration s t
  encoder : SameEncoder s t
  inputs : t.inputs = s.inputs

/-! ### A fed sequence -/

theorem exec_rxBuf_cases {octets : List Byte} {s t : State} (h : exec (.rxBuf octets) s = .next t) :
    s.usable = true ∧ receiveOctets octets (clearReturned s) = .next t :=
  inSession_cases (receiveOctets octets) s t h

theorem exec_rxBuf {s : State} (hu : s.usable = true) (octets : List Byte) :
    exec (.rxBuf octets) s = receiveOctets octets (clearReturned s) :=
  inSession_of_usable (receiveOctets octets) s hu

theorem receiveOctets_singleton (b : Byte) (s : State) : receiveOctets [b] s = receiveOctet b s := by
  rw [receiveOctets]
  cases receiveOctet b s <;> rfl

/-- One octet is a sequence of one octet. -/
theorem exec_rxByte_eq_rxBuf (b : Byte) (s : State) : exec (.rxByte b) s = exec (.rxBuf [b]) s :=
  inSession_congr (receiveOctets_singleton b (clearReturned s)).symm

theorem clearReturned_of_none {s : State} (h : s.returned = none) : clearReturned s = s := by
  cases s
  cases h
  rfl

/-- What one sequence leaves is entered again without a change: the session is still usable and nothing is returned. -/
theorem exec_rxBuf_after {xs : List Byte} {s u : State} (hu : s.usable = true)
    (h : receiveOctets xs (clearReturned s) = .next u) (ys : List Byte) :
    exec (.rxBuf ys) u = receiveOctets ys u := by
  have husable : u.usable = true := (Moves_sameConfiguration (receiveOctets_moves xs _ u h)).usable.trans hu
  rw [exec_rxBuf husable, clearReturned_of_none (receiveOctets_receivesOnly h).returned]

theorem andThen_congr {o : Answer} {k l : State → Answer} (h : ∀ u, o = .next u → k u = l u) :
    andThen o k = andThen o l := by
  cases o with
  | next u => exact h u rfl
  | fault | refused => rfl

theorem exec_rxBuf_append {s : State} (hu : s.usable = true) (xs ys : List Byte) :
    exec (.rxBuf (xs ++ ys)) s = andThen (exec (.rxBuf xs) s) (exec (.rxBuf ys)) := by
  rw [exec_rxBuf hu, exec_rxBuf hu, receiveOctets_append]
  exact andThen_congr fun u h => (exec_rxBuf_after hu h ys).symm

/-- Settles O32: each part begins as the whole goes on, since an operation of reception returns nothing. -/
theorem rxBufSplitsAnywhere : Obligations.RxBufSplitsAnywhere :=
  fun _ xs ys hu => ⟨exec_rxBuf hu [], exec_rxBuf_append hu xs ys⟩

/-- Settles O31, splitting off one last octet after another. -/
theorem rxBufIsRxBytePerOctet : Obligations.RxBufIsRxBytePerOctet := by
  intro s octets hu
  induction octets using List.reverseRecOn with
  | nil => exact exec_rxBuf hu []
  | append_singleton xs b ih =>
    rw [List.foldl_concat, ← ih, exec_rxBuf_append hu]
    exact andThen_congr fun u _ => (exec_rxByte_eq_rxBuf b u).symm

theorem receiveOctets_completes (octets : List Byte) {s : State} (hs : s.Inv) (h : s.ConsumerSendsOnly) :
    ∃ t, receiveOctets octets s = .next t := by
  induction octets generalizing s with
  | nil => exact ⟨s, rfl⟩
  | cons b rest ih =>
    obtain ⟨u, hu⟩ := receiveOctet_completes b hs h
    obtain ⟨t, ht⟩ := ih (receiveOctet_inv hs hu) (ConsumerSendsOnly_of_suffix (receiveOctet_receivesOnly hu).plan h)
    exact ⟨t, (receiveOctets_cons_next b rest s t).mpr ⟨u, hu, ht⟩⟩

theorem receives_of_exec_rxBuf {octets : List Byte} {s t : State} (hs : s.Inv) (hl : s.Launched)
    (h : exec (.rxBuf octets) s = .next t) : Receives s t := by
  obtain ⟨hencoder, -, hplan⟩ := receiveOctets_receivesOnly (exec_rxBuf_cases h).2
  have hconf := onlyInitChangesTheConfiguration s t (.rxBuf octets) nofun h
  exact ⟨exec_inv _ hs h, ⟨hconf.usable.trans hl.usable, ConsumerSendsOnly_of_suffix hplan hl.consumer⟩, hconf,
    ⟨hencoder.txCrc, hencoder.txIndex⟩, (exec_appendsOnly _ h).inputs⟩

theorem exec_rxBuf_completes (octets : List Byte) {s : State} (hs : s.Inv) (hl : s.Launched) :
    ∃ t, exec (.rxBuf octets) s = .next t ∧ Receives s t := by
  obtain ⟨t, ht⟩ := receiveOctets_completes octets (clearReturned_inv hs) hl.consumer
  have h : exec (.rxBuf octets) s = .next t := (exec_rxBuf hl.usable octets).trans ht
  exact ⟨t, h, receives_of_exec_rxBuf hs hl h⟩

/-- Settles O33: by the invariant no octet faults, and by the premises no delivery is refused. -/
theorem rxBufCompletes : Obligations.RxBufCompletes := by
  intro s octets hs hl
  obtain ⟨t, ht, hr⟩ := exec_rxBuf_completes octets hs hl
  exact ⟨t, ht, hr.inv, hr.launched, hr.configuration, hr.encoder, hr.inputs⟩

/-- Settles O30, the sequence of one octet. -/
theorem rxByteCompletes : Obligations.RxByteCompletes := by
  intro s b hs hl
  rw [exec_rxByte_eq_rxBuf]
  exact rxBufCompletes s [b] hs hl

/-- Settles O25: the boundary octet completes, and whichever way it is taken it resets the decoder. -/
theorem boundaryOctetResynchronises : Obligations.BoundaryOctetResynchronises := by
  intro s hs hl
  obtain ⟨t, ht, -, -, hconf, hencoder, hinputs⟩ := rxByteCompletes s Config.FLAG hs hl
  obtain ⟨hrest, hbuffer⟩ := receiveOctet_flag_resets (exec_rxByte_cases _ s t ht).2
  exact ⟨t, ht, hrest, fun a => memRead_congr s t a hbuffer hconf.initCount, hconf, hencoder, hinputs⟩

/-! ### No fault under the invariant -/

/-- The machine goes on or refuses, but does not stop with a fault. -/
def NeverFaults (o : Answer) : Prop := ∀ f, o ≠ .fault f

theorem NeverFaults_next (s : State) : NeverFaults (.next s) := nofun

theorem NeverFaults_refused (r : Refusal) : NeverFaults (.refused r) := nofun

theorem NeverFaults_andThen {o : Answer} {k : State → Answer} (h : NeverFaults o)
    (hk : ∀ u, o = .next u → NeverFaults (k u)) : NeverFaults (andThen o k) := by
  cases o with
  | next u => exact hk u rfl
  | fault f => exact absurd rfl (h f)
  | refused r => exact NeverFaults_refused r

theorem runConsumer_neverFaults (calls : List CapCall) (s : State) : NeverFaults (runConsumer calls s) := by
  induction calls generalizing s with
  | nil => exact NeverFaults_next s
  | cons c calls ih =>
    cases c with
    | send m => exact ih (sendMessage m s)
    | feed | construct => exact NeverFaults_refused _

theorem deliver_neverFaults (p : List Byte) (s : State) : NeverFaults (deliver p s) := by
  cases hc : s.capDeliver
  · rw [deliver_of_absent p s hc]
    exact NeverFaults_next s
  · rw [deliver, if_pos hc]
    exact runConsumer_neverFaults _ _

theorem closeFrame_neverFaults {s : State} (hb : s.writeOffset ≤ s.bufBytes) : NeverFaults (closeFrame s) := by
  by_cases hv : s.HoldsValidFrame
  · rw [closeFrame_of_valid s hb hv]
    exact NeverFaults_andThen (deliver_neverFaults _ s) fun u _ => NeverFaults_next _
  · rw [closeFrame_of_invalid s hb hv]
    exact NeverFaults_next _

theorem receiveOctet_neverFaults (b : Byte) {s : State} (hw : s.writeOffset < s.bufBytes) :
    NeverFaults (receiveOctet b s) := by
  rcases receiveOctet_of_inside b s hw with ⟨t, ht⟩ | hclose
  · rw [ht]
    exact NeverFaults_next t
  · rw [hclose]
    exact closeFrame_neverFaults hw.le

theorem receiveOctets_neverFaults (octets : List Byte) {s : State} (hs : s.Inv) :
    NeverFaults (receiveOctets octets s) := by
  induction octets generalizing s with
  | nil => exact NeverFaults_next s
  | cons b rest ih =>
    exact NeverFaults_andThen (receiveOctet_neverFaults b (inv_offset_lt_bufBytes hs))
      fun u hu => ih (receiveOctet_inv hs hu)

theorem inSession_neverFaults {k : State → Answer} {s : State} (h : NeverFaults (k (clearReturned s))) :
    NeverFaults (inSession k s) := by
  unfold inSession
  split
  · exact h
  · exact NeverFaults_refused _

theorem inSession_next_neverFaults (f : State → State) (s : State) :
    NeverFaults (inSession (fun t => .next (f t)) s) :=
  inSession_neverFaults (NeverFaults_next _)

theorem exec_rxByte_neverFaults (b : Byte) {s : State} (hs : s.Inv) : NeverFaults (exec (.rxByte b) s) :=
  inSession_neverFaults (receiveOctet_neverFaults b (inv_offset_lt_bufBytes (clearReturned_inv hs)))

/-- A received-octet class faults only where its octet is in the class, and there it does what `RX_BYTE` does. -/
theorem rxClassRow_neverFaults {i : Instr} {b : Byte} {k : State → Answer} {s : State} (hs : s.Inv)
    (hi : exec i s = inSession (inRxClass i b k) s) : NeverFaults (exec i s) := by
  by_cases hc : rxClass s.escapePending b = i
  · rw [← hc, ← exec_rxByte_eq_class]
    exact exec_rxByte_neverFaults b hs
  · rw [hi]
    refine inSession_neverFaults ?_
    rw [inRxClass_of_other i b k (clearReturned s) hc]
    exact NeverFaults_refused _

theorem inTxClass_neverFaults (i : Instr) (b : Byte) (f : State → State) (s : State) :
    NeverFaults (inTxClass i b (fun t => .next (f t)) s) := by
  unfold inTxClass
  split
  · exact NeverFaults_next _
  · exact NeverFaults_refused _

theorem execInit_neverFaults (a : InitArgs) (s : State) : NeverFaults (execInit a s) := by
  unfold execInit
  split
  · split
    · exact NeverFaults_next _
    · exact NeverFaults_refused _
  · exact NeverFaults_next _

theorem exec_neverFaults (i : Instr) {s : State} (hs : s.Inv) : NeverFaults (exec i s) := by
  cases i with
  | rxFlagAbort | rxFlagClose | rxEsc | rxData | rxDataEscaped => exact rxClassRow_neverFaults hs rfl
  | txEscaped7E | txEscaped7D | txLiteral => exact inSession_neverFaults (inTxClass_neverFaults _ _ _ _)
  | init a => exact execInit_neverFaults a s
  | crcStep => exact NeverFaults_next _
  | rxByte b => exact exec_rxByte_neverFaults b hs
  | rxBuf octets => exact inSession_neverFaults (receiveOctets_neverFaults octets (clearReturned_inv hs))
  | send | txFlag | txPut | txPayload | txCrc | txFlush => exact inSession_next_neverFaults _ s

/-- Settles O51: a step runs one instruction, and under the invariant every store and every reading of the CRC field is
inside the buffer. -/
theorem noStepFaultsUnderTheInvariant : Obligations.NoStepFaultsUnderTheInvariant := by
  intro s f hs
  cases hin : s.inputs with
  | nil =>
    rw [step, hin]
    exact NeverFaults_next s f
  | cons input rest =>
    have hrun := fun i => exec_neverFaults i (takeInput_inv hs rest) f
    cases input with
    | call i =>
      rw [step, hin]
      exact hrun i
    | rxOctet b =>
      rw [step_of_rxOctet hin]
      exact hrun _
    | txOctet b =>
      rw [step_of_txOctet hin]
      exact hrun _

/-! ### The accumulated octets -/

/-- `buf[0 .. write_offset-1]`: the payload so far and the two octets that may be its CRC field. -/
def accumulatedOctets (s : State) : List Byte := (List.range s.writeOffset).map (memRead s)

theorem accumulatedOctets_length (s : State) : (accumulatedOctets s).length = s.writeOffset := by
  simp [accumulatedOctets]

theorem accumulatedOctets_afterStore (v : Byte) (s : State) (h : s.writeOffset + 1 ≠ s.capacity) :
    accumulatedOctets (afterStore v s) = accumulatedOctets s ++ [v] := by
  have hw : (afterStore v s).writeOffset = s.writeOffset + 1 := by rw [afterStore_of_room v s h]
  rw [accumulatedOctets, hw, List.range_succ, List.map_append, List.map_singleton, memRead_afterStore_same]
  congr 1
  exact List.map_congr_left fun i hi => memRead_afterStore_other v s i (List.mem_range.mp hi).ne

theorem payloadSpan_eq_take (s : State) : payloadSpan s = (accumulatedOctets s).take (s.writeOffset - 2) := by
  rw [accumulatedOctets, ← List.map_take, List.take_range, Nat.min_eq_left (Nat.sub_le _ _), payloadSpan]

/-- The payload span and the CRC field, low octet first (R32). -/
theorem accumulatedOctets_eq (s : State) (h2 : 2 ≤ s.writeOffset) :
    accumulatedOctets s =
      payloadSpan s ++ [memRead s (s.writeOffset - 2), memRead s (s.writeOffset - 1)] := by
  obtain ⟨n, hn⟩ := Nat.exists_eq_add_of_le' h2
  simp [accumulatedOctets, payloadSpan, hn, List.range_succ]

/-! ### A frame is valid when folding all of it leaves zero -/

theorem crcFold_injective (xs : List Byte) : Function.Injective fun c => crcFold c xs := by
  induction xs with
  | nil => exact fun c d h => h
  | cons b xs ih => exact fun c d h => (crcStep_bijective b).injective (ih h)

/-- For a fixed accumulator the step tells octets apart. -/
theorem crcStep_octet_injective (c : Word) : Function.Injective (crcStep c) := by
  intro b d h
  have hmeet : b.setWidth 16 = d.setWidth 16 := (BitVec.xor_right_inj c).mp (crcShifts_injective 8 h)
  simpa using congrArg (BitVec.setWidth 8) hmeet

theorem lo8_concat16 (hi lo : Byte) : lo8 (concat16 hi lo) = lo := by
  ext i h
  have h16 : i < 16 := by omega
  simp [lo8, concat16, h, h16]

theorem hi8_concat16 (hi lo : Byte) : hi8 (concat16 hi lo) = hi := by
  ext i h
  have h16 : i < 16 ∧ 8 + i < 16 := by omega
  simp [hi8, concat16, h, h16]

/-- Two octets take an accumulator to zero exactly when they are its own, low one first (40_crc.md R63). -/
theorem crcFold_pair_eq_zero_iff (c : Word) (lo hi : Byte) : crcFold c [lo, hi] = 0#16 ↔ c = concat16 hi lo := by
  have hown : crcFold (concat16 hi lo) [lo, hi] = 0#16 := by
    have h := crcFold_own_octets (concat16 hi lo)
    rwa [lo8_concat16, hi8_concat16] at h
  constructor
  · intro h
    exact crcFold_injective [lo, hi] (h.trans hown.symm)
  · rintro rfl
    exact hown

/-- The test of R83 in one fold, from the seed, over the payload and its CRC field. -/
theorem holdsValidFrame_iff {s : State} (hs : s.Inv) :
    s.HoldsValidFrame ↔ 2 ≤ s.writeOffset ∧ crcFold Config.CRC_INIT (accumulatedOctets s) = 0#16 := by
  refine and_congr_right fun h2 => ?_
  rw [accumulatedOctets_eq s h2, crcFold_append, ← hs.crc_lags, crcFold_pair_eq_zero_iff, receivedCrc]

/-- Octets that differ in one place fold differently: from that place on every step is injective in the accumulator. -/
theorem eq_of_crcFold_eq {c : Word} {pre post : List Byte} {b d : Byte}
    (h : crcFold c (pre ++ b :: post) = crcFold c (pre ++ d :: post)) : b = d := by
  rw [crcFold_append, crcFold_append] at h
  exact crcStep_octet_injective _ (crcFold_injective post h)

/-- The accumulated octets around index `j`. -/
theorem accumulatedOctets_split (s : State) {j : Nat} (hj : j < s.writeOffset) :
    accumulatedOctets s = (List.range j).map (memRead s) ++
      memRead s j :: ((List.range (s.writeOffset - (j + 1))).map fun i => memRead s (j + 1 + i)) := by
  obtain ⟨n, hn⟩ := Nat.exists_eq_add_of_le (Nat.succ_le_of_lt hj)
  rw [accumulatedOctets, hn, Nat.add_sub_cancel_left, List.range_add, List.range_succ]
  simp

/-- A state whose accumulated octets differ from a valid frame's in exactly one place holds no valid frame. -/
theorem not_holdsValidFrame_of_one_wrong {s t : State} {j : Nat} (hs : s.Inv) (ht : t.Inv)
    (hv : s.HoldsValidFrame) (hw : t.writeOffset = s.writeOffset) (hj : j < s.writeOffset)
    (hwrong : memRead t j ≠ memRead s j) (hsame : ∀ a, a < s.writeOffset → a ≠ j → memRead t a = memRead s a) :
    ¬ t.HoldsValidFrame := by
  intro htv
  have hfold := (((holdsValidFrame_iff ht).mp htv).2).trans ((holdsValidFrame_iff hs).mp hv).2.symm
  have hpre : (List.range j).map (memRead t) = (List.range j).map (memRead s) :=
    List.map_congr_left fun i hi => by
      have := List.mem_range.mp hi
      exact hsame i (by omega) (by omega)
  have hpost : ((List.range (s.writeOffset - (j + 1))).map fun i => memRead t (j + 1 + i)) =
      (List.range (s.writeOffset - (j + 1))).map fun i => memRead s (j + 1 + i) :=
    List.map_congr_left fun i hi => by
      have := List.mem_range.mp hi
      exact hsame _ (by omega) (by omega)
  rw [accumulatedOctets_split s hj, accumulatedOctets_split t (hw ▸ hj), hw, hpre, hpost] at hfold
  exact hwrong (eq_of_crcFold_eq hfold)

theorem xor_bit_ne (b : Byte) {k : Nat} (hk : k < 8) : b ^^^ 1#8 <<< k ≠ b := by
  intro h
  have hbit := congrArg (fun x : Byte => x.getLsbD k) h
  simp [hk] at hbit

/-- Settles O42: a wrong bit is a wrong octet, and what holds no valid frame is only reset. -/
theorem singleBitErrorPreventsDelivery : Obligations.SingleBitErrorPreventsDelivery := by
  intro s t j k hs ht _ _ hv htu hte hw hj hk hbit hsame
  have hwrong : memRead t j ≠ memRead s j := by
    rw [hbit]
    exact xor_bit_ne _ hk
  have hnot := not_holdsValidFrame_of_one_wrong hs ht hv hw hj hwrong hsame
  rw [exec_rxFlagClose htu hte,
    closeFrame_of_invalid (clearReturned t) (inv_offset_lt_bufBytes (clearReturned_inv ht)).le hnot]
  rfl

/-! ### Receiving the interior of a frame -/

/-- An escape pair stores its second octet inverted, and leaves the mode bit as it was. -/
theorem receiveOctets_pair {x : Byte} {s : State} (hx : x ≠ Config.FLAG) (he : s.escapePending = false)
    (hw : s.writeOffset < s.bufBytes) :
    receiveOctets [Config.ESC, x] s = .next (afterStore (invertBit5 x) s) := by
  have hback : clearEscape (setEscape s) = s := clearEscape_of_clear he
  rw [receiveOctets, receiveOctet_esc s he, andThen_next, receiveOctets_singleton,
    receiveOctet_escaped x (setEscape s) hx rfl, hback, accumulate_eq _ s hw]

/-- What one octet is written as on the wire stores that octet (R46, R50). -/
theorem receiveOctets_escOctet (b : Byte) {s : State} (he : s.escapePending = false)
    (hw : s.writeOffset < s.bufBytes) : receiveOctets (escOctet b) s = .next (afterStore b s) := by
  by_cases hf : b = Config.FLAG
  · subst hf
    exact receiveOctets_pair (x := invertBit5 Config.FLAG) (by decide) he hw
  · by_cases hesc : b = Config.ESC
    · subst hesc
      exact receiveOctets_pair (x := invertBit5 Config.ESC) (by decide) he hw
    · rw [escOctet_literal b hf hesc, receiveOctets_singleton, receiveOctet_data b s hf hesc he, accumulate_eq b s hw]

/-- Store octets one after another. -/
def afterStores (xs : List Byte) (s : State) : State := xs.foldl (fun t v => afterStore v t) s

theorem afterStores_cons (v : Byte) (xs : List Byte) (s : State) :
    afterStores (v :: xs) s = afterStores xs (afterStore v s) := rfl

/-- Octets under the escaping rule come to the stores of the octets themselves. -/
theorem receiveOctets_escOctets (xs : List Byte) {s : State} (hs : s.Inv) (he : s.escapePending = false) :
    receiveOctets (escOctets xs) s = .next (afterStores xs s) := by
  induction xs generalizing s with
  | nil => rfl
  | cons v xs ih =>
    rw [escOctets, receiveOctets_append, receiveOctets_escOctet v he (inv_offset_lt_bufBytes hs), andThen_next]
    exact ih (afterStore_inv hs v) ((afterStore_escapePending v s).trans he)

@[simp] theorem afterStores_escapePending (xs : List Byte) (s : State) :
    (afterStores xs s).escapePending = s.escapePending := by
  induction xs generalizing s with
  | nil => rfl
  | cons v xs ih => rw [afterStores_cons, ih, afterStore_escapePending]

@[simp] theorem afterStores_trace (xs : List Byte) (s : State) : (afterStores xs s).trace = s.trace := by
  induction xs generalizing s with
  | nil => rfl
  | cons v xs ih => rw [afterStores_cons, ih, afterStore_trace]

@[simp] theorem afterStore_capacity (v : Byte) (s : State) : (afterStore v s).capacity = s.capacity := by
  obtain ⟨w, c, h⟩ := afterStore_eq_update v s
  rw [h]
  rfl

theorem afterStore_writeOffset_of_room (v : Byte) (s : State) (h : s.writeOffset + 1 ≠ s.capacity) :
    (afterStore v s).writeOffset = s.writeOffset + 1 := by
  rw [afterStore_of_room v s h]

/-- While there is room what is stored is accumulated. -/
theorem accumulatedOctets_afterStores (xs : List Byte) (s : State) (h : s.writeOffset + xs.length < s.capacity) :
    accumulatedOctets (afterStores xs s) = accumulatedOctets s ++ xs := by
  induction xs generalizing s with
  | nil => exact (List.append_nil _).symm
  | cons v xs ih =>
    rw [List.length_cons] at h
    have hroom : s.writeOffset + 1 ≠ s.capacity := by omega
    have hrest : (afterStore v s).writeOffset + xs.length < (afterStore v s).capacity := by
      rw [afterStore_writeOffset_of_room v s hroom, afterStore_capacity]
      omega
    rw [afterStores_cons, ih _ hrest, accumulatedOctets_afterStore v s hroom, List.append_assoc, List.singleton_append]

theorem crcField_length (p : List Byte) : (crcField p).length = 2 := rfl

/-- A payload accumulated with its own CRC field is a valid frame of that payload. -/
theorem validFrame_of_accumulated {s : State} {p : List Byte} (hs : s.Inv)
    (h : accumulatedOctets s = p ++ crcField p) : s.HoldsValidFrame ∧ payloadSpan s = p := by
  have hw : s.writeOffset = p.length + 2 := by
    rw [← accumulatedOctets_length, h, List.length_append, crcField_length]
  constructor
  · refine (holdsValidFrame_iff hs).mpr ⟨by omega, ?_⟩
    rw [h]
    exact foldingAFrameBodyLeavesZero.2 p
  · rw [payloadSpan_eq_take, h, hw, Nat.add_sub_cancel, List.take_left]

/-- From rest the interior of a frame that fits leaves a valid frame of its payload, and raises nothing. -/
theorem exec_rxBuf_interior {s t : State} {p : List Byte} (hs : s.Inv) (hrest : s.AtRest)
    (hfit : p.length + 3 ≤ s.capacity) (h : exec (.rxBuf (escOctets (p ++ crcField p))) s = .next t) :
    t.escapePending = false ∧ t.HoldsValidFrame ∧ payloadSpan t = p ∧ t.trace = s.trace := by
  have hrun := (exec_rxBuf_cases h).2
  have hlength : (clearReturned s).writeOffset + (p ++ crcField p).length < (clearReturned s).capacity := by
    rw [clearReturned_writeOffset, clearReturned_capacity, hrest.offset, List.length_append, crcField_length]
    omega
  have hnone : accumulatedOctets (clearReturned s) = [] := by simp [accumulatedOctets, hrest.offset]
  rw [receiveOctets_escOctets _ (clearReturned_inv hs) hrest.escape] at hrun
  cases hrun
  obtain ⟨hv, hp⟩ := validFrame_of_accumulated (exec_inv _ hs h)
    (by rw [accumulatedOctets_afterStores _ _ hlength, hnone, List.nil_append])
  exact ⟨by simp [hrest.escape], hv, hp, by simp⟩

/-! ### What a boundary octet delivers -/

theorem deliver_deliveries {p : List Byte} {s t : State} (hc : s.capDeliver = true) (h : deliver p s = .next t) :
    deliveries t.trace = deliveries s.trace ++ [p] := by
  rcases deliver_cases p s t h with ⟨habsent, -⟩ | ⟨-, msgs, -, rfl⟩
  · simp [hc] at habsent
  · rw [deliveries_append, deliveries_deliver_cons, deliveries_sends]

theorem closeFrame_deliveries {s t : State} (hc : s.capDeliver = true) (h : closeFrame s = .next t) :
    (s.HoldsValidFrame ∧ deliveries t.trace = deliveries s.trace ++ [payloadSpan s]) ∨
    (¬ s.HoldsValidFrame ∧ deliveries t.trace = deliveries s.trace) := by
  rcases closeFrame_cases s t h with ⟨hv, -, u, hu, rfl⟩ | ⟨hv, rfl⟩
  · have hd : deliveries u.trace = deliveries s.trace ++ [payloadSpan s] := deliver_deliveries hc hu
    exact .inl ⟨hv, hd⟩
  · exact .inr ⟨hv, rfl⟩

theorem not_holdsValidFrame_of_atRest {s : State} (h : s.AtRest) : ¬ s.HoldsValidFrame := fun hv => by
  have h2 := hv.1
  rw [h.offset] at h2
  omega

/-- A boundary octet delivers the payload of a valid frame where no escape is pending, and nothing else (R82 to R84). -/
theorem exec_flag_deliveries {s t : State} (hc : s.capDeliver = true) (h : exec (.rxByte Config.FLAG) s = .next t) :
    (s.escapePending = false ∧ s.HoldsValidFrame ∧ deliveries t.trace = deliveries s.trace ++ [payloadSpan s]) ∨
    (¬ (s.escapePending = false ∧ s.HoldsValidFrame) ∧ deliveries t.trace = deliveries s.trace) := by
  have hrun := (exec_rxByte_cases _ s t h).2
  rw [receiveOctet_flag] at hrun
  cases he : s.escapePending
  · have hclose : closeFrame (clearReturned s) = .next t := by simpa [he] using hrun
    rcases closeFrame_deliveries (s := clearReturned s) hc hclose with ⟨hv, hd⟩ | ⟨hv, hd⟩
    · exact .inl ⟨rfl, hv, hd⟩
    · exact .inr ⟨fun hh => hv hh.2, hd⟩
  · obtain rfl : abortFrame (clearReturned s) = t := by simpa [he] using hrun
    exact .inr ⟨by simp, rfl⟩

/-! ### Encoded frames -/

/-- A fed frame: the boundary octet, the interior, the boundary octet, each under the launch premises and completing. -/
theorem exec_wireFrame (p : List Byte) {s : State} (hs : s.Inv) (hl : s.Launched) : ∃ a b t,
    exec (.rxByte Config.FLAG) s = .next a ∧ a.AtRest ∧ Receives s a ∧
    exec (.rxBuf (escOctets (p ++ crcField p))) a = .next b ∧ Receives a b ∧
    exec (.rxByte Config.FLAG) b = .next t ∧ t.AtRest ∧
    exec (.rxBuf (wireFrame p)) s = .next t := by
  obtain ⟨a, ha, harest, -⟩ := boundaryOctetResynchronises s hs hl
  have hra := receives_of_exec_rxBuf hs hl ((exec_rxByte_eq_rxBuf Config.FLAG s).symm.trans ha)
  obtain ⟨b, hb, hrb⟩ := exec_rxBuf_completes (escOctets (p ++ crcField p)) hra.inv hra.launched
  obtain ⟨t, ht, htrest, -⟩ := boundaryOctetResynchronises b hrb.inv hrb.launched
  refine ⟨a, b, t, ha, harest, hra, hb, hrb, ht, htrest, ?_⟩
  have ha' : exec (.rxBuf [Config.FLAG]) s = .next a := (exec_rxByte_eq_rxBuf _ s).symm.trans ha
  have ht' : exec (.rxBuf [Config.FLAG]) b = .next t := (exec_rxByte_eq_rxBuf _ b).symm.trans ht
  rw [wireFrame_eq, ← List.singleton_append, exec_rxBuf_append hl.usable, ha', andThen_next,
    exec_rxBuf_append hra.launched.usable, hb, andThen_next, ht']

/-- A fed frame that fits is delivered, after at most one other payload, and after none from rest. -/
theorem exec_wireFrame_deliveries (p : List Byte) {s : State} (hs : s.Inv) (hl : s.Launched)
    (hc : s.capDeliver = true) : ∃ t, exec (.rxBuf (wireFrame p)) s = .next t ∧ t.AtRest ∧
    (p.length + 3 ≤ s.capacity → ∃ pre, pre.length ≤ 1 ∧ (s.AtRest → pre = []) ∧
      deliveries t.trace = deliveries s.trace ++ pre ++ [p]) := by
  obtain ⟨a, b, t, ha, harest, hra, hb, hrb, ht, htrest, hall⟩ := exec_wireFrame p hs hl
  refine ⟨t, hall, htrest, fun hfit => ?_⟩
  have hca : a.capDeliver = true := hra.configuration.capDeliver.trans hc
  have hcb : b.capDeliver = true := hrb.configuration.capDeliver.trans hca
  obtain ⟨he, hv, hp, htrace⟩ := exec_rxBuf_interior hra.inv harest (hra.configuration.capacity ▸ hfit) hb
  have hlast : deliveries t.trace = deliveries a.trace ++ [p] := by
    rcases exec_flag_deliveries hcb ht with ⟨-, -, hd⟩ | ⟨hnot, -⟩
    · rw [hd, hp, htrace]
    · exact absurd ⟨he, hv⟩ hnot
  rcases exec_flag_deliveries hc ha with ⟨-, hv, hd⟩ | ⟨-, hd⟩
  · exact ⟨[payloadSpan s], by simp, fun hrest => absurd hv (not_holdsValidFrame_of_atRest hrest), by rw [hlast, hd]⟩
  · exact ⟨[], by simp, fun _ => rfl, by rw [hlast, hd, List.append_nil]⟩

theorem deliver_of_mem_deliveries {p : List Byte} {es : List Event} (h : p ∈ deliveries es) :
    ∃ ctx, Event.deliver ctx p ∈ es := by
  obtain ⟨e, he, hp⟩ := List.mem_filterMap.mp h
  cases e with
  | deliver ctx q =>
    cases hp
    exact ⟨ctx, he⟩
  | emit | flush => cases hp

/-- A payload that does not fit is not among what is delivered, from any state. -/
theorem oversize_payload_not_delivered {s t : State} {p : List Byte} {octets : List Byte} (hs : s.Inv)
    (h : exec (.rxBuf octets) s = .next t) (hlong : s.capacity < p.length + 3) :
    ∃ others, deliveries t.trace = deliveries s.trace ++ others ∧ p ∉ others := by
  obtain ⟨new, hnew, hfits⟩ := everyDeliveredPayloadFits s t octets hs h
  refine ⟨deliveries new, by rw [hnew, deliveries_append], fun hp => ?_⟩
  obtain ⟨ctx, hd⟩ := deliver_of_mem_deliveries hp
  exact Nat.not_le.mpr hlong (hfits ctx p hd).1

/-- Settles O38: the first boundary octet brings the decoder to rest, the interior stores the payload and its CRC field, and the
last boundary octet finds a valid frame; where the payload is too long, nothing delivered is as long. -/
theorem encodedFramesRoundTrip : Obligations.EncodedFramesRoundTrip := by
  intro s p hs hl hc
  obtain ⟨t, ht, hrest, hfits⟩ := exec_wireFrame_deliveries p hs hl hc
  refine ⟨t, ht, hrest, fun hfit => ?_, fun hlong _ => oversize_payload_not_delivered hs ht hlong⟩
  obtain ⟨pre, hpre, hnone, hd⟩ := hfits hfit
  refine ⟨fun h => ?_, pre, hpre, hd⟩
  rw [hd, hnone h, List.append_nil]

/-- Settles O39: each frame is fed from rest and leaves the decoder at rest, under the premises again. -/
theorem concatenatedFramesAreDeliveredInOrder : Obligations.ConcatenatedFramesAreDeliveredInOrder := by
  intro s ps hs hl hc hrest hfit
  induction ps generalizing s with
  | nil => exact ⟨_, exec_rxBuf hl.usable [], ⟨hrest.offset, hrest.escape, hrest.crc⟩, (List.append_nil _).symm⟩
  | cons p ps ih =>
    obtain ⟨hp, hps⟩ := List.forall_mem_cons.mp hfit
    obtain ⟨u, hu, hurest, hfits, -⟩ := encodedFramesRoundTrip s p hs hl hc
    have hdeliver := (hfits hp).1 hrest
    obtain ⟨huinv, hulaunched, huconf, -, -⟩ := receives_of_exec_rxBuf hs hl hu
    obtain ⟨t, ht, htrest, hd⟩ := ih u huinv hulaunched (huconf.capDeliver.trans hc) hurest
      (by rw [huconf.capacity]; exact hps)
    refine ⟨t, ?_, htrest, by rw [hd, hdeliver, List.append_assoc, List.singleton_append]⟩
    rw [List.flatMap_cons, exec_rxBuf_append hl.usable, hu, andThen_next, ht]

theorem emissions_sendEvents {s : State} (ho : s.capOutput = true) (msg : List Byte) :
    emissions (sendEvents s msg) = wireFrame msg := by
  simp [sendEvents, emitEvents, ho, emissions_map_emit, emissions_flushEvents]

/-- Settles O40: `SEND` emits the wire frame of its message and leaves the decoder and the premises as they were. -/
theorem loopbackDeliversTheMessage : Obligations.LoopbackDeliversTheMessage := by
  intro s msg hs hl hrest ho hc hfit
  have hsend := exec_send msg s hl.usable
  obtain ⟨u, hu, hurest, hfits, -⟩ := encodedFramesRoundTrip _ msg (exec_inv _ hs hsend) ⟨hl.usable, hl.consumer⟩ hc
  have hdeliver := (hfits hfit).1 ⟨hrest.offset, hrest.escape, hrest.crc⟩
  refine ⟨_, u, wireFrame msg, hsend, ?_, hu, hurest, ?_⟩
  · rw [emissions_append, emissions_sendEvents ho]
  · rw [hdeliver, deliveries_append, deliveries_sendEvents, List.append_nil]

end Sys2Proof.Machine
end

section
/-! SUPPORT. The statements of 60_exceptions.md: what a failed `INIT` answers, and the number it returns. -/

namespace Sys2Proof.Machine

/-! ### The failed construction -/

/-- With the handle or the buffer absent, `INIT` raises the construction error, whatever the size given (R101, R120). -/
theorem exec_init_of_absent {a : InitArgs} (habsent : a.handle = false ∨ a.buffer = false) (s : State) :
    exec (.init a) s = .next (raiseInitError a s) :=
  if_neg (Bool.eq_false_iff.mp (Bool.and_eq_false_iff.mpr habsent))

/-- Where no handle was given there is no session behind it to be marked (log 13). -/
theorem raiseInitError_eq (a : InitArgs) (s : State) :
    raiseInitError a s =
      { s with returned := some .initError, usable := if a.handle then false else s.usable } := by
  unfold raiseInitError
  cases a.handle with
  | true => simp
  | false => simp

/-- Settles O45: a failed `INIT` raises the construction error, which writes those two fields only. -/
theorem failedInitWritesNothing : Obligations.FailedInitWritesNothing := by
  intro s a habsent
  rw [exec_init_of_absent habsent s, raiseInitError_eq]

/-! ### The number returned -/

/-- However far below -1 the opaque magnitude puts it (log 14). -/
theorem initErr_neg : Config.initErr < 0 := Int.negSucc_lt_zero Config.initErrMagnitude

/-- Settles O47: a negative number is not the 0 of success. -/
theorem constructionErrorIsNegativeAndDistinct : Obligations.ConstructionErrorIsNegativeAndDistinct := by
  refine ⟨⟨Config.initErr, rfl, initErr_neg⟩, rfl, fun h => ?_⟩
  have hzero : Config.initErr = 0 := Option.some.inj h
  exact initErr_neg.ne hzero

end Sys2Proof.Machine
end

section
/-! SUPPORT. The statements of 70_reset_and_hazards.md: what each outcome of `INIT` leaves, that a session no successful `INIT`
stands behind is refused, and what a delivery capability may do to the session inside a `Deliver`. -/

namespace Sys2Proof.Machine

/-! ### The construction -/

theorem exec_init_of_present {a : InitArgs} (hh : a.handle = true) (hb : a.buffer = true) (s : State) :
    exec (.init a) s =
      if Config.minBufBytes ≤ a.bufBytes then .next (constructSession a s) else .refused .bufBytesBelowThree :=
  if_pos (Bool.and_eq_true_iff.mpr ⟨hh, hb⟩)

theorem constructSession_atRest (a : InitArgs) (s : State) : (constructSession a s).AtRest := ⟨rfl, rfl, rfl⟩

/-- The invariant needs nothing of the session before: the construction writes every field it speaks of. -/
theorem constructSession_inv {a : InitArgs} (h3 : Config.minBufBytes ≤ a.bufBytes) (s : State) :
    (constructSession a s).Inv :=
  inv_of_fresh (Nat.le_sub_of_add_le h3) rfl rfl rfl

/-- Settles O44: a session with a handle, a buffer and at least 3 octets is constructed, and one without the handle or the
buffer raises the construction error; both leave the fields they do not write. -/
theorem initConstructsAFreshDecoder : Obligations.InitConstructsAFreshDecoder := by
  intro s a
  refine ⟨fun hh hb h3 => ⟨constructSession a s, ?_, ?_⟩, fun habsent => ⟨raiseInitError a s, ?_, ?_⟩⟩
  · rw [exec_init_of_present hh hb, if_pos h3]
  · exact ⟨rfl, rfl, rfl, rfl, rfl, rfl, constructSession_atRest a s, constructSession_inv h3 s, rfl, rfl,
      ⟨rfl, rfl⟩, ⟨rfl, rfl⟩⟩
  · exact exec_init_of_absent habsent s
  · exact ⟨rfl, rfl, ⟨rfl, rfl, rfl, fun _ => rfl⟩, rfl, rfl, rfl, rfl, rfl⟩

/-- Settles O46: with the handle and the buffer present only the size is left to refuse. -/
theorem initBelowThreeOctetsIsRefused : Obligations.InitBelowThreeOctetsIsRefused := by
  intro s a hh hb h3
  rw [exec_init_of_present hh hb, if_neg (Nat.not_le.mpr h3)]

/-- Settles O48: every instruction but those two is an operation of the session. -/
theorem unconstructedSessionIsRefused : Obligations.UnconstructedSessionIsRefused :=
  fun _ _ hu hi hc => exec_of_unusable (Bool.eq_false_iff.mp hu) hi hc

/-! ### The delivery capability inside a `Deliver` -/

/-- Closing a valid frame is its delivery, then the reset (R83, R85). -/
theorem exec_rxFlagClose_of_valid {s : State} (hu : s.usable = true) (he : s.escapePending = false)
    (hb : s.writeOffset ≤ s.bufBytes) (hv : s.HoldsValidFrame) :
    exec .rxFlagClose s =
      andThen (deliver (payloadSpan s) (clearReturned s)) fun t => .next (discardAndReset t) :=
  (exec_rxFlagClose hu he).trans (closeFrame_of_valid (clearReturned s) hb hv)

/-- Settles O36: the delivery answers next with the events of the `SEND`s after its own, and the reset follows. -/
theorem consumerSendsInsideADelivery : Obligations.ConsumerSendsInsideADelivery := by
  intro s msgs hu he hb hv hcap hplan
  rw [exec_rxFlagClose_of_valid hu he hb hv, deliver_sends _ (clearReturned s) msgs hcap hplan, andThen_next]
  rfl

/-- The `SEND`s a consumer makes first do not keep a refused call from being reached. -/
theorem runConsumer_refused_after_sends {calls : List CapCall} {r : Refusal}
    (hcalls : ∀ t, runConsumer calls t = .refused r) (msgs : List (List Byte)) (s : State) :
    runConsumer (msgs.map CapCall.send ++ calls) s = .refused r := by
  induction msgs generalizing s with
  | nil => exact hcalls s
  | cons m msgs ih => exact ih (sendMessage m s)

/-- A refusal of what the consumer does is a refusal of the step: the reset is not reached. -/
theorem exec_rxFlagClose_refused {s : State} {calls : List CapCall} {r : Refusal} (hu : s.usable = true)
    (he : s.escapePending = false) (hb : s.writeOffset ≤ s.bufBytes) (hv : s.HoldsValidFrame)
    (hcap : s.capDeliver = true) (hcalls : ∀ t, runConsumer calls t = .refused r) {msgs : List (List Byte)}
    (hplan : s.deliverPlan.headD [] = msgs.map CapCall.send ++ calls) : exec .rxFlagClose s = .refused r := by
  have hcap : (clearReturned s).capDeliver = true := hcap
  have hplan : (clearReturned s).deliverPlan.headD [] = msgs.map CapCall.send ++ calls := hplan
  rw [exec_rxFlagClose_of_valid hu he hb hv, deliver, if_pos hcap, hplan,
    runConsumer_refused_after_sends hcalls, andThen_refused]

/-- Settles O37: feeding and constructing are refused wherever the consumer comes to them. -/
theorem reentrantConsumerIsRefused : Obligations.ReentrantConsumerIsRefused := by
  intro s msgs octets a rest hu he hb hv hcap
  refine ⟨fun hplan => ?_, fun hplan => ?_⟩
  · exact exec_rxFlagClose_refused hu he hb hv hcap (fun _ => rfl) hplan
  · exact exec_rxFlagClose_refused hu he hb hv hcap (fun _ => rfl) hplan

end Sys2Proof.Machine
end
